-- ==== Sys2Proof/Word.lean ====
section
/-! DEFINITION. The word types of the block and the small sets of names the spec gives: edge kinds,
classifier results, turns of the interleaving, the selector word and the input words of the three formats.
-/

namespace Sys2Proof

/-- A byte of the framer: bit 7 is the most significant and the first received (R7, R55). -/
abbrev Byte := BitVec 8

/-- The kind of an edge event (R80, R81; Rising = 1, Falling = 0 on the wire). -/
inductive EdgeKind where
  | falling
  | rising
deriving DecidableEq, Repr

/-- The result of the bit classifier (R83, R110). -/
inductive BitClass where
  | one
  | zero
  | invalid
deriving DecidableEq, Repr

/-- Who acts next: the reset input, agent P or agent C (R60 (f), R191). -/
inductive Turn where
  | reset
  | producer
  | consumer
deriving DecidableEq, Repr, Inhabited

/-- Format SEL, the selector word of agent C, by its four fields (R84). -/
structure Sel where
  /-- SEL[3]: 1 iff the queue is non-empty. -/
  n : Bool
  /-- SEL[2]: the phase, SEEK = 0 and FRAME = 1. -/
  p : Bool
  /-- SEL[1]: 1 iff `bit_cnt = 8`. -/
  l : Bool
  /-- SEL[0]: the bit at the head of the queue; ignored when `n = 0`. -/
  b : Bool
deriving DecidableEq, Repr

/-- A word at one of the block's three selecting inputs (R89): the reset wire, the EV word of agent P
(`TS_W + 2` bits, as an unsigned number) or the four bits of the selector word of agent C. -/
inductive InWord where
  | reset (w : BitVec 1)
  | ev (w : Nat)
  | sel (w : BitVec 4)
deriving DecidableEq, Repr

end Sys2Proof
end

