-- ==== Sys2Proof/Config.lean ====
section
/-! DEFINITION. The ten parameters of the block (R4, R5, R33) and the free values: what the spec leaves open
and the machine still goes on. A free value is a constant with no body: nothing constrains it.
-/

namespace Sys2Proof

/-- The configuration registers (R33): the six parameters the source names (R4) and the four structural
ones (R5). All are unsigned integers, read-only to the block and constant for a run (R64). -/
structure Config where
  /-- `TICKS_MIN_ONE`: least delta classified One, inclusive. -/
  ticksMinOne : Nat
  /-- `TICKS_MAX_ONE`: greatest delta classified One, inclusive. -/
  ticksMaxOne : Nat
  /-- `TICKS_MIN_ZERO`: least delta classified Zero, inclusive. -/
  ticksMinZero : Nat
  /-- `TICKS_MAX_ZERO`: greatest delta classified Zero, inclusive. -/
  ticksMaxZero : Nat
  /-- `PREAMBLE_MIN`: least run of One bits that, followed by a Zero, is a preamble. -/
  preambleMin : Nat
  /-- `MIN_PACKET_LEN`: least number of bytes of an emitted packet. -/
  minPacketLen : Nat
  /-- `TS_W`: width in bits of a timestamp and of a delta. -/
  tsW : Nat
  /-- `Q_DEPTH`: capacity of the Bit Queue in bits. -/
  qDepth : Nat
  /-- `CNT_W`: width in bits of `one_count`. -/
  cntW : Nat
  /-- `PKT_MAX_BYTES`: capacity of the packet buffer in bytes. -/
  pktMaxBytes : Nat
deriving DecidableEq, Repr

/-- The default values of R4 and R5. No rule depends on a default; `State.reset` holds them
(DESIGN CHOICE, log 1). -/
def Config.default : Config where
  ticksMinOne := 12
  ticksMaxOne := 38
  ticksMinZero := 68
  ticksMaxZero := 150
  preambleMin := 10
  minPacketLen := 2
  tsW := 32
  qDepth := 32
  cntW := 8
  pktMaxBytes := 16

/-- FREE VALUE (V11, R60 (f)): whose turn it is where the schedule in the state says nothing (log 4). -/
opaque Config.freeTurn : Nat → Turn

/-- FREE VALUE (V1, R240): what `last_rise` holds after the operation RST (log 3). -/
opaque Config.freeTimestamp : Nat → Nat

/-- FREE VALUE (V6, R84): `SEL[0]` when the queue is empty (log 7). -/
opaque Config.freeSelBit : Nat → Bool

/-- FREE VALUE (V5, R88): the port `pkt_len` when `pkt_valid = 0` (log 14). -/
opaque Config.freePktLen : Nat → Nat

/-- FREE VALUE (V5, R88): the byte lanes of `pkt_data` that carry no byte of a packet (log 14). -/
opaque Config.freePktData : Nat → Nat

/-- FREE VALUE (V5, R88): the port `pkt_xor_ok` when `pkt_valid = 0` (log 14). -/
opaque Config.freePktXorOk : Nat → Bool

end Sys2Proof
end

