-- ==== Sys2Proof/Syntax.lean ====
section
/-! DEFINITION. The ten operations of the block (R89), one constructor per row of the operation map. -/

namespace Sys2Proof

/-- The operations (R89). `t` is the timestamp `ev_ts` (an unsigned number of `TS_W` bits), `b` the popped
data bit (One = true, Zero = false, R82). -/
inductive Instr where
  /-- RST: put every state element at its reset value (R240). -/
  | rst
  /-- P.IDLE: no event is presented (R113). -/
  | pIdle
  /-- P.RISE: latch the timestamp of a rising edge (R111). -/
  | pRise (t : Nat)
  /-- P.FALL: compute the delta, classify it, enqueue One or Zero (R112). -/
  | pFall (t : Nat)
  /-- C.WAIT: the queue is empty (R130). -/
  | cWait
  /-- C.SEEK1: a One while seeking (R131). -/
  | cSeek1
  /-- C.SEEK0: a Zero while seeking (R132). -/
  | cSeek0
  /-- C.SHIFT: a data bit of a group (R150). -/
  | cShift (b : Bool)
  /-- C.FLAG0: trailing flag 0, more bytes follow (R151). -/
  | cFlag0
  /-- C.FLAG1: trailing flag 1, the final byte (R152). -/
  | cFlag1
deriving DecidableEq, Repr

end Sys2Proof
end

