-- ==== Sys2Proof/WellFormed.lean ====
section
/-! DEFINITION. The well-formedness checks: of a configuration (R6), of an operation (its timestamp has
`TS_W` bits) and of an input word (it fits its port).
-/

namespace Sys2Proof

/-- R6: a configuration is well-formed iff (a) to (e) hold. Only then does the block have a behaviour. -/
def Config.wellFormed (c : Config) : Bool :=
  (decide (c.ticksMinOne ≤ c.ticksMaxOne) && decide (c.ticksMinZero ≤ c.ticksMaxZero)) &&
  decide (c.ticksMaxOne < c.ticksMinZero) &&
  decide (c.ticksMaxZero < 2 ^ c.tsW) &&
  (decide (1 ≤ c.preambleMin) && decide (c.preambleMin ≤ 2 ^ c.cntW - 1)) &&
  (decide (c.minPacketLen ≤ c.pktMaxBytes) && decide (1 ≤ c.qDepth) && decide (1 ≤ c.pktMaxBytes))

/-- R6 as a proposition. -/
abbrev Config.WellFormed (c : Config) : Prop := c.wellFormed = true

/-- An operation is well-formed for a timestamp width when its timestamp has that many bits (R80, R111,
R112). -/
def Instr.wellFormed (tsW : Nat) : Instr → Bool
  | .rst => true
  | .pIdle => true
  | .pRise t => decide (t < 2 ^ tsW)
  | .pFall t => decide (t < 2 ^ tsW)
  | .cWait => true
  | .cSeek1 => true
  | .cSeek0 => true
  | .cShift _ => true
  | .cFlag0 => true
  | .cFlag1 => true

/-- An input word is well-formed when it fits its port: an EV word has `TS_W + 2` bits (R80); the widths of
the other two are in their types. -/
def InWord.wellFormed (tsW : Nat) : InWord → Bool
  | .reset _ => true
  | .ev w => decide (w < 2 ^ (tsW + 2))
  | .sel _ => true

end Sys2Proof
end

