-- ==== Sys2Proof/Decode.lean ====
section
/-! DEFINITION. The decoder of the three selecting inputs (R80, R84, R89, R94), the encoder from the same
tables, and the host's numbering of the operation table.
-/

namespace Sys2Proof

/-- Why an input word decodes to no operation. -/
inductive DecodeError where
  /-- The reset wire is 0: RST is not performed (R89). -/
  | resetNotAsserted
  /-- The word has more bits than the EV port, which has `TS_W + 2` (R80). -/
  | evTooWide
deriving DecidableEq, Repr

/-- R81: Rising = 1, Falling = 0. -/
def EdgeKind.toBit : EdgeKind → Bool
  | .falling => false
  | .rising => true

/-- R81 read backwards: the kind the wire `ev_kind` names. -/
def EdgeKind.ofBit (k : Bool) : EdgeKind := if k then .rising else .falling

/-- R80: `EV[TS_W+1]`, the wire `ev_valid`. -/
def evValid (tsW w : Nat) : Bool := w.testBit (tsW + 1)

/-- R80: `EV[TS_W]`, the wire `ev_kind`. -/
def evKind (tsW w : Nat) : EdgeKind := EdgeKind.ofBit (w.testBit tsW)

/-- R80: `EV[TS_W-1:0]`, the wires `ev_ts`. -/
def evTs (tsW w : Nat) : Nat := w % 2 ^ tsW

/-- R80: the EV word that presents an edge of kind `k` at timestamp `t`: `1 ‖ k ‖ t`. -/
def evWord (tsW : Nat) (k : EdgeKind) (t : Nat) : Nat := (2 + k.toBit.toNat) * 2 ^ tsW + t

/-- R84: the four bits `n ‖ p ‖ l ‖ b`. -/
def Sel.toBits (x : Sel) : BitVec 4 :=
  BitVec.ofBool x.n ++ BitVec.ofBool x.p ++ BitVec.ofBool x.l ++ BitVec.ofBool x.b

/-- R84: the fields of the four bits. -/
def Sel.ofBits (w : BitVec 4) : Sel :=
  { n := w.getLsbD 3, p := w.getLsbD 2, l := w.getLsbD 1, b := w.getLsbD 0 }

/-- The decode of the reset wire: RST is selected by `rst = 1` (R89, R240). -/
def decodeReset (w : BitVec 1) : Except DecodeError Instr :=
  if w = 1#1 then .ok .rst else .error .resetNotAsserted

/-- The decode of an EV word (R89, R94): total on every word that fits the port. -/
def decodeEv (tsW w : Nat) : Except DecodeError Instr :=
  if w < 2 ^ (tsW + 2) then
    if evValid tsW w then
      match evKind tsW w with
      | .rising => .ok (.pRise (evTs tsW w))
      | .falling => .ok (.pFall (evTs tsW w))
    else .ok .pIdle
  else .error .evTooWide

/-- The decode of a selector word (R89, R94): total; `l` is ignored when `p = 0` (R90 (b)) and everything
but `n` when `n = 0`. -/
def decodeSel (x : Sel) : Instr :=
  if x.n = false then .cWait
  else if x.p = false then (if x.b then .cSeek1 else .cSeek0)
  else if x.l = false then .cShift x.b
  else (if x.b then .cFlag1 else .cFlag0)

/-- The decoder of the block's inputs, total, rejecting by name (R89, R94). -/
def decode (tsW : Nat) : InWord → Except DecodeError Instr
  | .reset w => decodeReset w
  | .ev w => decodeEv tsW w
  | .sel w => .ok (decodeSel (Sel.ofBits w))

/-- The encoder, from the operation map (R89), a `0` in every position the map marks `x`. -/
def encode (tsW : Nat) : Instr → InWord
  | .rst => .reset 1#1
  | .pIdle => .ev 0
  | .pRise t => .ev (evWord tsW .rising t)
  | .pFall t => .ev (evWord tsW .falling t)
  | .cWait => .sel 0b0000#4
  | .cSeek1 => .sel 0b1001#4
  | .cSeek0 => .sel 0b1000#4
  | .cShift b => .sel (if b then 0b1101#4 else 0b1100#4)
  | .cFlag0 => .sel 0b1110#4
  | .cFlag1 => .sel 0b1111#4

/-- The input word that a row of the operation table stands for, from its selecting bits `w` as the table
numbers them (the table's `match` and `mask` are over the selecting bits only: `rst`, `v k`, `n p l b`).
A width of 1, 2 or 4 bits names the format, and one of more than 8 a whole EV word. In one byte the three
formats share their numbers, so there 1 is RESET, 0, 2 and 3 are EV, 4 to 15 are SEL, and a larger number is
a whole EV word (log 15). -/
def tableWord (tsW nbits w : Nat) : InWord :=
  if nbits = 1 then .reset (BitVec.ofNat 1 w)
  else if nbits = 2 then .ev (w % 4 * 2 ^ tsW)
  else if nbits = 4 then .sel (BitVec.ofNat 4 w)
  else if 8 < nbits then .ev w
  else if w = 1 then .reset 1#1
  else if w < 4 then .ev (w * 2 ^ tsW)
  else if w < 16 then .sel (BitVec.ofNat 4 w)
  else .ev w

/-- The operation the decoder reads from a row of the operation table (the host's numbering), at the default
timestamp width. -/
def decodeTableWord (nbits w : Nat) : Option Instr :=
  (decode Config.default.tsW (tableWord Config.default.tsW nbits w)).toOption

end Sys2Proof
end

