-- ==== Sys2Proof/Machine/State.lean ====
section
/-! DEFINITION. The state of the block as plain data: the tuple S of R20, the configuration (R33), the
environment's part of the step relation (R191), and the reasons a step can stop.
-/

namespace Sys2Proof.Machine

/-- The two values of `phase` (R25). -/
inductive Phase where
  /-- The source's Preamble / SeekingPreamble, encoded 0. -/
  | seek
  /-- The source's DataFrame / PreambleFound, encoded 1. -/
  | frame
deriving DecidableEq, Repr

/-- The anomalies, the block's exceptions (R210). -/
inductive Anomaly where
  /-- A1, noted by P.FALL on an Invalid delta (R211). -/
  | timingNoise
  /-- A2, noted by C.SEEK0 on a miss (R212). -/
  | incompletePreamble
  /-- A3, noted by C.WAIT (R213). -/
  | queueUnderrun
  /-- A4, noted by C.FLAG1 on a packet that is too short (R214). -/
  | shortPacket
  /-- A5, noted by `QPush` on a full queue (R215). -/
  | queueOverflow
  /-- A6, noted by C.FLAG0 and C.FLAG1 on a full packet buffer (R216). -/
  | packetOverflow
deriving DecidableEq, Repr

/-- An emitted packet: its bytes in receive order and the sideband bit (R32). -/
structure Packet where
  /-- The bytes, first received first (R56). -/
  bytes : List Byte
  /-- The sideband `xor_ok` (R172). -/
  xorOk : Bool
deriving DecidableEq, Repr

/-- The state of the block and of what its environment still holds for it. -/
structure State where
  /-- The configuration registers (R33): written by no operation. -/
  cfg : Config
  /-- `last_rise` (R21): timestamp of the most recent rising edge. -/
  lastRise : Nat
  /-- `rise_valid` (R22): a rising edge is pending. -/
  riseValid : Bool
  /-- `q` (R34): the Bit Queue, oldest bit first, One = true (R82). -/
  q : List Bool
  /-- `q_ovf` (R24): sticky, a classified bit was dropped. -/
  qOvf : Bool
  /-- `phase` (R25). -/
  phase : Phase
  /-- `one_count` (R23): the saturating run counter. -/
  oneCount : Nat
  /-- `bit_cnt` (R26): bits of the current group already consumed, a natural number less than 9. -/
  bitCnt : Fin 9
  /-- `acc` (R27): the byte accumulator. -/
  acc : Byte
  /-- `pkt` (R28): the packet buffer, first byte first; `pkt_len` is its length. -/
  pkt : List Byte
  /-- `xor_acc` (R29): the exclusive-or of the bytes in `pkt`. -/
  xorAcc : Byte
  /-- `pkt_ovf` (R31): sticky, a frame outgrew the packet buffer. -/
  pktOvf : Bool
  /-- `out` (R32): the emitted packets, first emitted first. -/
  out : List Packet
  /-- `E` (R191): the EV words the source has not presented yet, next first. A finite list: that a run has finitely
  many events is the model's choice (DESIGN CHOICE, log 24). -/
  events : List Nat
  /-- The turns of the interleaving to come (R60 (f)), next first; the model's own (log 4). -/
  sched : List Turn
  /-- The number of the next free values; the model's own (log 5). -/
  freeCount : Nat
  /-- The anomalies noted by agent P, first noted first; the model's own side history (R210, log 10). -/
  pNotes : List Anomaly
  /-- The anomalies noted by agent C, first noted first; the model's own side history (R210, log 10). -/
  cNotes : List Anomaly
deriving DecidableEq, Repr

/-- Faults: there are none. No operation of the block faults, traps or hangs (R10), so nothing raises one
(log 19). -/
inductive Fault where
deriving DecidableEq, Repr

/-- The reasons the model gives a step no meaning. -/
inductive Refusal where
  /-- Raised by `exec` for an operation that has no meaning yet. Safe. -/
  | notModelled (mnemonic : String)
  /-- Raised by every operation when the configuration is not well-formed: the spec has a model refuse it
  (R6, R10). Safe. -/
  | illFormedConfig
  /-- Raised by a consumer operation run in a state whose selector word does not select it (R89): the spec
  gives it no effect there. `step` never does this. Safe (log 8). -/
  | notSelected
  /-- Raised by `step` when the word at the port decodes to no operation: an EV word that is wider than its
  port (R80). Safe (log 9). -/
  | undecodable (e : DecodeError)
deriving DecidableEq, Repr

/-- The state right after reset: the reset state `S0` of R38 under the default configuration (log 1), with
nothing presented and no turn fixed (log 4). `last_rise` has no reset value in the spec: 0 is a
DESIGN CHOICE (log 2). -/
def State.reset : State where
  cfg := Config.default
  lastRise := 0
  riseValid := false
  q := []
  qOvf := false
  phase := .seek
  oneCount := 0
  bitCnt := 0
  acc := 0x00#8
  pkt := []
  xorAcc := 0x00#8
  pktOvf := false
  out := []
  events := []
  sched := []
  freeCount := 0
  pNotes := []
  cNotes := []

end Sys2Proof.Machine
end

