-- ==== Sys2Proof/Machine/Operands.lean ====
section
/-! DEFINITION. The operand forms and the arithmetic of the operations: timestamps, the delta, the classifier,
the shift into the accumulator, the saturating increment, the exclusive-or of a packet.
-/

namespace Sys2Proof.Machine

/-- R8, R114: `sub_W(a, b) = (a − b) mod 2^W`. -/
def subMod (w a b : Nat) : Nat := (a + (2 ^ w - b % 2 ^ w)) % 2 ^ w

/-- R133: `sat_inc_W(v)`. -/
def satInc (w v : Nat) : Nat := if v < 2 ^ w - 1 then v + 1 else v

/-- The timestamp operand as the `TS_W` wires of `ev_ts` carry it (R80). A timestamp that no word encodes
is cut to its low `TS_W` bits (DESIGN CHOICE, log 9). -/
def tsOperand (c : Config) (t : Nat) : Nat := t % 2 ^ c.tsW

/-- R114: the delta of a falling edge at `tFall` after a rising edge at `lastRise`. -/
def delta (c : Config) (tFall lastRise : Nat) : Nat := subMod c.tsW tFall lastRise

/-- R83: the comparator of the One window, inclusive at both ends. -/
def hitOne (c : Config) (d : Nat) : Bool := decide (c.ticksMinOne ≤ d) && decide (d ≤ c.ticksMaxOne)

/-- R83: the comparator of the Zero window, inclusive at both ends. -/
def hitZero (c : Config) (d : Nat) : Bool := decide (c.ticksMinZero ≤ d) && decide (d ≤ c.ticksMaxZero)

/-- R110: `Classify(d)`. -/
def classify (c : Config) (d : Nat) : BitClass :=
  if hitOne c d then .one else if hitZero c d then .zero else .invalid

/-- R82: the queue bit of a classified interval: One = 1, Zero = 0, nothing for Invalid. -/
def classBit : BitClass → Option Bool
  | .one => some true
  | .zero => some false
  | .invalid => none

/-- R150: `acc[6:0] ‖ b`. -/
def shiftIn (acc : Byte) (b : Bool) : Byte := acc.extractLsb' 0 7 ++ BitVec.ofBool b

/-- R29, R172: the exclusive-or of all bytes of a sequence, `0x00` when it is empty. -/
def xorBytes (bytes : List Byte) : Byte := bytes.foldl (· ^^^ ·) 0x00#8

/-- R150: `bit_cnt + 1`, used at 0 to 7 only; there is no wrap. -/
def nextBitCnt (k : Fin 9) : Fin 9 := if h : k.val < 8 then ⟨k.val + 1, by omega⟩ else k

/-- R25, R85: the wire value of `phase`. -/
def Phase.toBit : Phase → Bool
  | .seek => false
  | .frame => true

/-- R85 read backwards. -/
def Phase.ofBit (p : Bool) : Phase := if p then .frame else .seek

/-- R88: `LEN_W = ceil(log2(PKT_MAX_BYTES + 1))`, the width of `pkt_len`. -/
def lenW (c : Config) : Nat := Nat.log2 c.pktMaxBytes + 1

end Sys2Proof.Machine
end

