-- ==== Sys2Proof/Machine/Flags.lean ====
section
/-! DEFINITION. The derived predicates of R30, the threshold tests of the operations, and the selector word
of R84. The block has no condition codes; its one-bit state elements are fields of the state.
-/

namespace Sys2Proof.Machine

/-- R30: `q_empty ≡ (len(q) = 0)`. -/
def State.qEmpty (s : State) : Bool := s.q.isEmpty

/-- R30: `q_full ≡ (len(q) = Q_DEPTH)`, tested as R51 tests it: no room for one more bit. -/
def State.qFull (s : State) : Bool := !decide (s.q.length < s.cfg.qDepth)

/-- R30: `last ≡ (bit_cnt = 8)`. -/
def State.last (s : State) : Bool := decide (s.bitCnt.val = 8)

/-- R132: the preamble test `one_count ≥ PREAMBLE_MIN`. -/
def State.preambleMet (s : State) : Bool := decide (s.cfg.preambleMin ≤ s.oneCount)

/-- R151, R152, R65: room for one more byte, `pkt_len < PKT_MAX_BYTES`. -/
def State.pktRoom (s : State) : Bool := decide (s.pkt.length < s.cfg.pktMaxBytes)

/-- R171: the minimum-length filter on a complete packet. -/
def lengthOk (c : Config) (bytes : List Byte) : Bool := decide (c.minPacketLen ≤ bytes.length)

/-- R84: the selector word formed from the state. The head bit of an empty queue is a free value that the
decode ignores (log 7). -/
def State.sel (s : State) : Sel :=
  { n := !s.qEmpty
    p := s.phase.toBit
    l := s.last
    b := s.q.headD (Config.freeSelBit s.freeCount) }

end Sys2Proof.Machine
end

