-- ==== Sys2Proof/Machine/Ops.lean ====
section
/-! DEFINITION. The named operations over the state: the queue, the packet buffer, the output hand-off, the
decode-state reset, taking an anomaly, and the two guards under which an operation has its effect.
-/

namespace Sys2Proof.Machine

/-- The two storage spaces are within their capacities (R36 (I1), (I7)): the canonical form of the block's
storage. The block has no addressable memory (R50, R59). -/
abbrev Memory.wf (s : State) : Prop :=
  s.q.length ≤ s.cfg.qDepth ∧ s.pkt.length ≤ s.cfg.pktMaxBytes

/-- R174: `DecodeReset()`: the six elements of the decode state take the value `DS0` of R39. -/
def State.decodeReset (s : State) : State :=
  { s with phase := .seek, oneCount := 0, bitCnt := 0, acc := 0x00#8, pkt := [], xorAcc := 0x00#8 }

/-- Agent P notes an anomaly in its side history (R8, R210). -/
def State.noteP (a : Anomaly) (s : State) : State := { s with pNotes := s.pNotes ++ [a] }

/-- Agent C notes an anomaly in its side history (R8, R210). -/
def State.noteC (a : Anomaly) (s : State) : State := { s with cNotes := s.cNotes ++ [a] }

/-- Taking an anomaly, the block's exception (R210, R219): what it records and the state it changes. There is
no saved state, no vector and no return (R219, R220). The write `rise_valid <- 0` of A1 belongs to P.FALL,
which performs it on every branch but the orphan (R112). -/
def State.takeAnomaly (a : Anomaly) (s : State) : State :=
  match a with
  | .timingNoise => s.noteP .timingNoise
  | .incompletePreamble => { s with oneCount := 0 }.noteC .incompletePreamble
  | .queueUnderrun => s.noteC .queueUnderrun
  | .shortPacket => s.decodeReset.noteC .shortPacket
  | .queueOverflow => { s with qOvf := true }.noteP .queueOverflow
  | .packetOverflow => { s with pktOvf := true }.decodeReset.noteC .packetOverflow

/-- R51, R54: `QPush(b)`: append at the tail, or drop the newest bit when the queue is full. -/
def State.qPush (b : Bool) (s : State) : State :=
  if s.qFull then s.takeAnomaly .queueOverflow else { s with q := s.q ++ [b] }

/-- R52: `QPop()`: `none` is Empty; otherwise the oldest bit and the state without it. -/
def State.qPop (s : State) : Option (Bool × State) :=
  match s.q with
  | [] => none
  | b :: rest => some (b, { s with q := rest })

/-- R65: `PktAppend(v)`; its callers test `pkt_len < PKT_MAX_BYTES`. -/
def State.pktAppend (v : Byte) (s : State) : State := { s with pkt := s.pkt ++ [v] }

/-- R173: `Emit(bytes, ok)`. -/
def State.emit (bytes : List Byte) (ok : Bool) (s : State) : State :=
  { s with out := s.out ++ [{ bytes := bytes, xorOk := ok }] }

/-- An operation has its effect under a well-formed configuration only; otherwise the model refuses (R6,
R10). -/
def State.configured (s : State) (k : State → State) : Host.Outcome State Fault Refusal :=
  if s.cfg.WellFormed then .next (k s) else .refused .illFormedConfig

/-- A consumer operation has its effect when the selector word selects it (R89, R190); where it is not
selected the spec gives it none and the model refuses (log 8). -/
def State.selected (s : State) (i : Instr) (k : State → State) : Host.Outcome State Fault Refusal :=
  if s.cfg.WellFormed then
    if decodeSel s.sel = i then .next (k s) else .refused .notSelected
  else .refused .illFormedConfig

/-- The effect of a consumer operation other than C.WAIT: `QPop` removes the head bit, then the operation
acts (R190). Every right-hand side reads the state before the operation (R8), and the pop changes nothing an
operation reads but the queue. An empty queue selects no such operation. -/
def State.popThen (k : State → State) (s : State) : State :=
  match s.qPop with
  | none => s
  | some (_, s') => k s'

end Sys2Proof.Machine
end

