-- ==== Sys2Proof/Machine/Framer.lean ====
section
/-! DEFINITION. The Packet Framer and the packet validator: C.SHIFT, C.FLAG0, C.FLAG1 (R150 to R154, R171 to
R175).
-/

namespace Sys2Proof.Machine

/-- R150: shift a data bit into the accumulator and count it. -/
def State.shiftBit (b : Bool) (s : State) : State :=
  { s with acc := shiftIn s.acc b, bitCnt := nextBitCnt s.bitCnt }

/-- R151, branch "append": the byte joins the packet and the next group begins. -/
def State.appendByte (s : State) : State :=
  { s.pktAppend s.acc with xorAcc := s.xorAcc ^^^ s.acc, acc := 0x00#8, bitCnt := 0 }

/-- R151: flag 0. -/
def State.flagZero (s : State) : State :=
  if s.pktRoom then s.appendByte else s.takeAnomaly .packetOverflow

/-- R171, R173, R175: the validator on a complete packet: the length filter, the hand-off with the non-gating
sideband (R172), and the decode-state reset. -/
def State.validate (s : State) (bytes : List Byte) (x : Byte) : State :=
  if lengthOk s.cfg bytes then (s.emit bytes (decide (x = 0x00#8))).decodeReset
  else s.takeAnomaly .shortPacket

/-- R152: flag 1. -/
def State.flagOne (s : State) : State :=
  if s.pktRoom then s.validate (s.pkt ++ [s.acc]) (s.xorAcc ^^^ s.acc)
  else s.takeAnomaly .packetOverflow

/-- C.SHIFT (R150). -/
def execCShift (b : Bool) (s : State) : Host.Outcome State Fault Refusal :=
  s.selected (.cShift b) (State.popThen (State.shiftBit b))

/-- C.FLAG0 (R151). -/
def execCFlag0 (s : State) : Host.Outcome State Fault Refusal :=
  s.selected .cFlag0 (State.popThen State.flagZero)

/-- C.FLAG1 (R152). -/
def execCFlag1 (s : State) : Host.Outcome State Fault Refusal :=
  s.selected .cFlag1 (State.popThen State.flagOne)

end Sys2Proof.Machine
end

