-- ==== Sys2Proof/Machine/Preamble.lean ====
section
/-! DEFINITION. The wait of agent C and the Preamble Detector: C.WAIT, C.SEEK1, C.SEEK0 (R130 to R133). -/

namespace Sys2Proof.Machine

/-- R131: count a One, saturating. -/
def State.countOne (s : State) : State := { s with oneCount := satInc s.cfg.cntW s.oneCount }

/-- R132: a Zero is a preamble hit or restarts the count. -/
def State.endRun (s : State) : State :=
  if s.preambleMet then { s with phase := .frame, oneCount := 0 }
  else s.takeAnomaly .incompletePreamble

/-- C.WAIT (R130): no write; QueueUnderrun is noted. -/
def execCWait (s : State) : Host.Outcome State Fault Refusal :=
  s.selected .cWait (State.takeAnomaly .queueUnderrun)

/-- C.SEEK1 (R131). -/
def execCSeek1 (s : State) : Host.Outcome State Fault Refusal :=
  s.selected .cSeek1 (State.popThen State.countOne)

/-- C.SEEK0 (R132). -/
def execCSeek0 (s : State) : Host.Outcome State Fault Refusal :=
  s.selected .cSeek0 (State.popThen State.endRun)

end Sys2Proof.Machine
end

