-- ==== Sys2Proof/Machine/Producer.lean ====
section
/-! DEFINITION. The operations of agent P, the edge-event handler: P.IDLE, P.RISE, P.FALL (R111 to R113). -/

namespace Sys2Proof.Machine

/-- R112: what P.FALL does with a classified delta: push One or Zero, drop Invalid. -/
def State.takeClass (r : BitClass) (s : State) : State :=
  match r with
  | .one => s.qPush true
  | .zero => s.qPush false
  | .invalid => s.takeAnomaly .timingNoise

/-- R111: latch the timestamp; a pending rising edge is replaced. -/
def State.rise (t : Nat) (s : State) : State :=
  { s with lastRise := tsOperand s.cfg t, riseValid := true }

/-- R112: the orphan is ignored; otherwise the rising edge is used up and the delta is classified. -/
def State.fall (t : Nat) (s : State) : State :=
  if s.riseValid = false then s
  else { s with riseValid := false }.takeClass (classify s.cfg (delta s.cfg (tsOperand s.cfg t) s.lastRise))

/-- P.IDLE (R113): no write. -/
def execPIdle (s : State) : Host.Outcome State Fault Refusal := s.configured fun s => s

/-- P.RISE (R111). -/
def execPRise (t : Nat) (s : State) : Host.Outcome State Fault Refusal := s.configured (State.rise t)

/-- P.FALL (R112). -/
def execPFall (t : Nat) (s : State) : Host.Outcome State Fault Refusal := s.configured (State.fall t)

end Sys2Proof.Machine
end

