-- ==== Sys2Proof/Machine/Reset.lean ====
section
/-! DEFINITION. The operation RST (R240). -/

namespace Sys2Proof.Machine

/-- R240: `S <- S0`. Every element of R38 takes its reset value; `last_rise` becomes unspecified, a free value
of `TS_W` bits (log 3). The configuration and the environment's part stay (R191: `E' = E`); the two side
histories restart with `out` (log 10). -/
def State.toReset (s : State) : State :=
  { State.reset with
    cfg := s.cfg
    lastRise := Config.freeTimestamp s.freeCount % 2 ^ s.cfg.tsW
    events := s.events
    sched := s.sched
    freeCount := s.freeCount }

/-- RST (R240). -/
def execRst (s : State) : Host.Outcome State Fault Refusal := s.configured State.toReset

end Sys2Proof.Machine
end

