-- ==== Sys2Proof/Machine/Dispatch.lean ====
section
/-! DEFINITION. The dispatch: one arm per operation. -/

namespace Sys2Proof.Machine

/-- The meaning of each operation (R89). -/
def exec (i : Instr) (s : State) : Host.Outcome State Fault Refusal :=
  match i with
  | .rst => Sys2Proof.Machine.execRst s
  | .pIdle => Sys2Proof.Machine.execPIdle s
  | .pRise t => Sys2Proof.Machine.execPRise t s
  | .pFall t => Sys2Proof.Machine.execPFall t s
  | .cWait => Sys2Proof.Machine.execCWait s
  | .cSeek1 => Sys2Proof.Machine.execCSeek1 s
  | .cSeek0 => Sys2Proof.Machine.execCSeek0 s
  | .cShift b => Sys2Proof.Machine.execCShift b s
  | .cFlag0 => Sys2Proof.Machine.execCFlag0 s
  | .cFlag1 => Sys2Proof.Machine.execCFlag1 s

end Sys2Proof.Machine
end

