-- ==== Sys2Proof/Machine/Fetch.lean ====
section
/-! DEFINITION. How the next operation comes to the block: whose turn it is, the word at the port of that
agent, what taking it uses up, and how a word is placed so that the next step takes it.
-/

namespace Sys2Proof.Machine

/-- Whose turn it is (R60 (f), R191): the next turn of the schedule, or a free value where the schedule says
nothing (log 4). -/
def State.turn (s : State) : Turn := s.sched.headD (Config.freeTurn s.freeCount)

/-- The EV word at the producer's port (R80): the next one of the source's, or `ev_valid = 0` when the source
presents none (R113, R191). There `ev_kind` and `ev_ts` are any value (R80, V6): the model puts 0 on both wires
(DESIGN CHOICE, log 22), and the decode ignores them. -/
def State.evPort (s : State) : Nat := s.events.headD 0

/-- The operation of the next step: RST (R240), the decode of the EV word (R94), or the operation the selector
word selects (R190). -/
def State.fetch (s : State) : Except DecodeError Instr :=
  match s.turn with
  | .reset => decode s.cfg.tsW (.reset 1#1)
  | .producer => decode s.cfg.tsW (.ev s.evPort)
  | .consumer => .ok (decodeSel s.sel)

/-- What a step uses up beside its operation: the turn, the EV word if it was agent P's turn (R191), and the
number of the free values. -/
def State.afterFetch (s : State) : State :=
  { s with
    sched := s.sched.tail
    events := if s.turn = .producer then s.events.tail else s.events
    freeCount := s.freeCount + 1 }

/-- The state in which the next step takes the given input word: the turn of its agent, and for an EV word the
source's next word, for a selector word the queue, phase and group counter that form it (R84). -/
def State.place (x : InWord) (s : State) : State :=
  match x with
  | .reset _ => { s with sched := .reset :: s.sched }
  | .ev w => { s with sched := .producer :: s.sched, events := w :: s.events }
  | .sel w =>
    { s with
      sched := .consumer :: s.sched
      q := if (Sel.ofBits w).n then (Sel.ofBits w).b :: s.q.tail else []
      phase := Phase.ofBit (Sel.ofBits w).p
      bitCnt := if (Sel.ofBits w).l then 8 else if s.bitCnt = 8 then 0 else s.bitCnt }

end Sys2Proof.Machine
end

