-- ==== Sys2Proof/Machine/Step.lean ====
section
/-! DEFINITION. One step of the interleaving model (R191): one operation of one agent. -/

namespace Sys2Proof.Machine

/-- R191: the operation of the next turn, on the state that taking it leaves. -/
def step (s : State) : Host.Outcome State Fault Refusal :=
  match s.fetch with
  | .ok i => exec i s.afterFetch
  | .error e => .refused (.undecodable e)

/-- The host's placing of a row of the operation table where `step` takes it next (log 15). -/
def State.withFetchWord (s : State) (nbits w : Nat) : State := s.place (tableWord s.cfg.tsW nbits w)

end Sys2Proof.Machine
end

