-- ==== Sys2Proof/Machine/Cycle.lean ====
section
/-! DEFINITION. The cycle-level schedule of the hardware (R63, R218, R253): one P operation and one C
operation per clock cycle, both on the state at the start of the cycle, or RST. It is one schedule of the
interleaving model of `Machine/Step.lean`.
-/

namespace Sys2Proof.Machine

/-- R63: what a cycle commits, from the state `s` at its start, the result `p` of agent P's operation on `s`
and the result `c` of agent C's operation on `s`. Each agent's own elements are taken from its own result
(R20); the queue loses the bit C popped and gains the bit P pushed. -/
def State.commit (s p c : State) : State :=
  { c with
    lastRise := p.lastRise
    riseValid := p.riseValid
    qOvf := p.qOvf
    pNotes := p.pNotes
    q := c.q ++ p.q.drop s.q.length }

/-- The state at the start of a cycle, with the cycle's EV word taken from the source (one `ev_valid` wire,
H5 of R246). -/
def State.cycleStart (s : State) : State :=
  { s with events := s.events.tail, freeCount := s.freeCount + 1 }

/-- Both agents' operations on the state at the start of the cycle (R63, R218 (b)). -/
def State.bothAgents (s : State) (p c : Instr) : Host.Outcome State Fault Refusal :=
  match exec p s with
  | .fault f => .fault f
  | .refused r => .refused r
  | .next sp =>
    match exec c s with
    | .fault f => .fault f
    | .refused r => .refused r
    | .next sc => .next (s.commit sp sc)

/-- One clock cycle (R63). With `rst = 1` RST alone is performed and an event presented in that cycle is lost
(R218 (a), R240). -/
def State.clock (rst : Bool) (s : State) : Host.Outcome State Fault Refusal :=
  if rst then exec .rst s.cycleStart
  else
    match decode s.cfg.tsW (.ev s.evPort) with
    | .error e => .refused (.undecodable e)
    | .ok p => s.cycleStart.bothAgents p (decodeSel s.cycleStart.sel)

end Sys2Proof.Machine
end

