-- ==== Sys2Proof/Machine/Ports.lean ====
section
/-! DEFINITION. The output ports: the PKT word of R88 and the status outputs of R33, and what an observer of
the block sees (R11).
-/

namespace Sys2Proof.Machine

/-- Format PKT (R88): the four output ports of agent C in one cycle. -/
structure PktPort where
  /-- `pkt_valid`. -/
  valid : Bool
  /-- `pkt_len`, `LEN_W` bits. -/
  len : Nat
  /-- `pkt_data`, `8 · PKT_MAX_BYTES` bits; byte `i` at bits `8i+7` to `8i`. -/
  data : Nat
  /-- `pkt_xor_ok`. -/
  xorOk : Bool
deriving DecidableEq, Repr

/-- R88: the bytes on the low lanes of `pkt_data`, byte `i` at bits `8i+7` to `8i`. -/
def laneData : List Byte → Nat
  | [] => 0
  | b :: rest => b.toNat + 2 ^ 8 * laneData rest

/-- R88: the PKT word that carries a packet; the lanes at index `≥ pkt_len` are a free value (log 14). -/
def pktWord (c : Config) (n : Nat) (p : Packet) : PktPort where
  valid := true
  len := p.bytes.length
  data := laneData p.bytes +
    2 ^ (8 * p.bytes.length) * (Config.freePktData n % 2 ^ (8 * (c.pktMaxBytes - p.bytes.length)))
  xorOk := p.xorOk

/-- R88: the PKT word of a cycle without a hand-off; all but `pkt_valid` is a free value (log 14). -/
def noPktWord (c : Config) (n : Nat) : PktPort where
  valid := false
  len := Config.freePktLen n % 2 ^ lenW c
  data := Config.freePktData n % 2 ^ (8 * c.pktMaxBytes)
  xorOk := Config.freePktXorOk n

/-- R88, R173: the PKT word in the cycle that takes the state `before` to the state `after`: the packet that
the cycle handed off, if it handed one off. -/
def State.pktPort (before after : State) : PktPort :=
  match after.out.drop before.out.length with
  | [] => noPktWord before.cfg before.freeCount
  | p :: _ => pktWord before.cfg before.freeCount p

/-- R33: the level output `st_q_ovf`. -/
def State.stQOvf (s : State) : Bool := s.qOvf

/-- R33: the level output `st_pkt_ovf`. -/
def State.stPktOvf (s : State) : Bool := s.pktOvf

/-- R11: what the block shows its environment: the emitted packets and the two sticky flags. -/
def State.observed (s : State) : List Packet × Bool × Bool := (s.out, s.stQOvf, s.stPktOvf)

end Sys2Proof.Machine
end

