-- ==== Sys2Proof/Machine/Stimulus.lean ====
section
/-! DEFINITION. The stimulus notation of R86, R87, R91 and R92: the bits of a byte, a group and a packet, and
the EV words of a train of pulses.
-/

namespace Sys2Proof.Machine

/-- R86: the eight data bits of a byte in order of arrival, most significant first. -/
def byteBits (v : Byte) : List Bool :=
  [v.getLsbD 7, v.getLsbD 6, v.getLsbD 5, v.getLsbD 4, v.getLsbD 3, v.getLsbD 2, v.getLsbD 1, v.getLsbD 0]

/-- R92: `BYTE(v, f)`: a group, eight data bits and the trailing flag. -/
def groupBits (v : Byte) (f : Bool) : List Bool := byteBits v ++ [f]

/-- R87: the groups of a packet: flag 0 after every byte but the last, flag 1 after the last. -/
def frameBits : List Byte → List Bool
  | [] => []
  | [v] => groupBits v true
  | v :: w :: rest => groupBits v false ++ frameBits (w :: rest)

/-- R92: `PREAMBLE(n)`: `1*n 0`. -/
def preambleBits (n : Nat) : List Bool := List.replicate n true ++ [false]

/-- R92: `PACKET(n; v0, ..., vk)`. -/
def packetBits (n : Nat) (bytes : List Byte) : List Bool := preambleBits n ++ frameBits bytes

/-- R92: `PULSE(d, g)` for each pair `(d, g)` in turn, from the time cursor `T`: the EV words of a rising edge
at `T` and a falling edge `d` ticks later, then a low interval of `g` ticks. -/
def pulseWords (tsW : Nat) : Nat → List (Nat × Nat) → List Nat
  | _, [] => []
  | T, (d, g) :: rest =>
    evWord tsW .rising (T % 2 ^ tsW) :: evWord tsW .falling ((T + d) % 2 ^ tsW) ::
      pulseWords tsW ((T + d + g) % 2 ^ tsW) rest

/-- The bits that a train of pulses conveys: one per high interval in a window, none for noise (R87, R91). -/
def pulseBits (c : Config) (pulses : List (Nat × Nat)) : List Bool :=
  pulses.filterMap fun x => classBit (classify c x.1)

end Sys2Proof.Machine
end

