-- ==== Sys2Proof/Safety.lean ====
section
/-! DEFINITION. What claims about the block are stated in: the invariants of R36, quiescence (R197), a
lossless run (R10), the decode state (R39), finite runs of the interleaving and of the clock, and runs under a
schedule without end, with the fairness of R192.
-/

namespace Sys2Proof.Machine

/-- The six elements of the decode state (R39). -/
structure DecodeState where
  /-- `phase`. -/
  phase : Phase
  /-- `one_count`. -/
  oneCount : Nat
  /-- `bit_cnt`. -/
  bitCnt : Fin 9
  /-- `acc`. -/
  acc : Byte
  /-- `pkt`. -/
  pkt : List Byte
  /-- `xor_acc`. -/
  xorAcc : Byte
deriving DecidableEq, Repr

/-- The decode state of a state. -/
def State.decodeState (s : State) : DecodeState where
  phase := s.phase
  oneCount := s.oneCount
  bitCnt := s.bitCnt
  acc := s.acc
  pkt := s.pkt
  xorAcc := s.xorAcc

/-- `DS0` (R39). -/
def DecodeState.initial : DecodeState where
  phase := .seek
  oneCount := 0
  bitCnt := 0
  acc := 0x00#8
  pkt := []
  xorAcc := 0x00#8

/-- The reset state `S0` of R38 under a configuration (the configuration is a parameter of the run, R20). -/
def State.resetFor (c : Config) : State := { State.reset with cfg := c }

/-- The invariants of R36, with the widths of R21, R23 and R80 and the well-formedness of R6. I2 is in the type
of `bitCnt`; I9 speaks of two states and is a statement of its own. -/
structure State.Inv (s : State) : Prop where
  /-- R6. -/
  config : s.cfg.WellFormed
  /-- R21: `last_rise` has `TS_W` bits. -/
  lastRiseWidth : s.lastRise < 2 ^ s.cfg.tsW
  /-- R23: `one_count` has `CNT_W` bits. -/
  oneCountWidth : s.oneCount < 2 ^ s.cfg.cntW
  /-- R80: every EV word of the source fits the port. -/
  eventsFit : ∀ w ∈ s.events, w < 2 ^ (s.cfg.tsW + 2)
  /-- I1 and I7. -/
  storage : Memory.wf s
  /-- I3. -/
  seekEmpty : s.phase = .seek → s.bitCnt = 0 ∧ s.acc = 0x00#8 ∧ s.pkt = [] ∧ s.xorAcc = 0x00#8
  /-- I4. -/
  frameCount : s.phase = .frame → s.oneCount = 0
  /-- I5: `acc[7:k] = 0` for `bit_cnt = k < 8`. -/
  accHigh : s.phase = .frame → s.bitCnt.val < 8 → s.acc.toNat < 2 ^ s.bitCnt.val
  /-- I6. -/
  xorAccIs : s.xorAcc = xorBytes s.pkt
  /-- I8. -/
  outSound : ∀ p ∈ s.out, p.bytes ≠ [] ∧ s.cfg.minPacketLen ≤ p.bytes.length ∧
    p.bytes.length ≤ s.cfg.pktMaxBytes ∧ (p.xorOk = true ↔ xorBytes p.bytes = 0x00#8)

/-- R197: the source has presented every event and the queue is empty. -/
abbrev State.Quiescent (s : State) : Prop := s.events = [] ∧ s.q = []

/-- R10: no bit and no frame was dropped by an overflow. -/
abbrev State.Lossless (s : State) : Prop := s.qOvf = false ∧ s.pktOvf = false

/-- R248: the state of the block at a cycle boundary of the hardware schedule: at most one bit waits, and none
while a rising edge is pending. -/
abbrev State.AtMostOneBit (s : State) : Prop := s.q.length ≤ 1 ∧ (s.riseValid = true → s.q = [])

/-- `k` steps of the interleaving, stopping at the first step that answers no next state. -/
def State.runFor : Nat → State → Host.Outcome State Fault Refusal
  | 0, s => .next s
  | k + 1, s =>
    match step s with
    | .next t => State.runFor k t
    | .fault f => .fault f
    | .refused r => .refused r

/-- A schedule without end: whose turn it is at each step of a run (R60 (f), R191). It is given from outside and is
no part of the state. -/
abbrev Schedule := Nat → Turn

/-- R192: weak fairness of C-steps. A C-step is possible in every state (R190), so it is fair that agent C has
a turn again and again. Nothing is asked of the turns of agent P or of the events: no fairness is assumed of the
source. -/
def Schedule.Fair (σ : Schedule) : Prop := ∀ n, ∃ k, n ≤ k ∧ σ k = .consumer

/-- The schedule never asserts the reset input. -/
def Schedule.ResetFree (σ : Schedule) : Prop := ∀ k, σ k ≠ .reset

/-- The state in which the next turn is the given one. -/
def State.inTurn (x : Turn) (s : State) : State := { s with sched := x :: s.sched }

/-- The run of a state under a schedule: the state after `k` steps, step `j` taken in turn `σ j`. A step that
answers no next state leaves the state; from a state that meets the invariants there is none. -/
def State.runUnder (σ : Schedule) (s : State) : Nat → State
  | 0 => s
  | k + 1 =>
    match step ((s.runUnder σ k).inTurn (σ k)) with
    | .next t => t
    | .fault _ => s.runUnder σ k
    | .refused _ => s.runUnder σ k

/-- `k` clock cycles with `rst = 0`, stopping at the first that answers no next state. -/
def State.clockFor : Nat → State → Host.Outcome State Fault Refusal
  | 0, s => .next s
  | k + 1, s =>
    match s.clock false with
    | .next t => State.clockFor k t
    | .fault f => .fault f
    | .refused r => .refused r

/-- Agent P's operation, then agent C's on the state it leaves (one order of R60 (f)). -/
def State.producerFirst (s : State) (p : Instr) : Host.Outcome State Fault Refusal :=
  match exec p s with
  | .next u => exec (decodeSel u.sel) u
  | .fault f => .fault f
  | .refused r => .refused r

/-- Agent C's operation, then agent P's on the state it leaves (the other order of R60 (f)). -/
def State.consumerFirst (s : State) (p : Instr) : Host.Outcome State Fault Refusal :=
  match exec (decodeSel s.sel) s with
  | .next u => exec p u
  | .fault f => .fault f
  | .refused r => .refused r

/-- A use of the Bit Queue: a push of agent P or a pop of agent C (R50, R58). -/
inductive QueueUse where
  | push (b : Bool)
  | pop
deriving DecidableEq, Repr

/-- The bits offered to `QPush` by a sequence of queue uses, in order. -/
def offeredBits : List QueueUse → List Bool
  | [] => []
  | .push b :: rest => b :: offeredBits rest
  | .pop :: rest => offeredBits rest

/-- A sequence of queue uses from a state: the state it leaves, the bits `QPush` accepted and the bits `QPop`
returned, each in order (R53). -/
def State.useQueue : List QueueUse → State → State × List Bool × List Bool
  | [], s => (s, [], [])
  | .push b :: rest, s =>
    let r := State.useQueue rest (s.qPush b)
    (r.1, if s.qFull then r.2.1 else b :: r.2.1, r.2.2)
  | .pop :: rest, s =>
    match s.qPop with
    | none => State.useQueue rest s
    | some (b, s') =>
      let r := State.useQueue rest s'
      (r.1, r.2.1, b :: r.2.2)

end Sys2Proof.Machine

namespace Sys2Proof

/-- The operations of agent P (R89). -/
def Instr.isProducer : Instr → Bool
  | .pIdle => true
  | .pRise _ => true
  | .pFall _ => true
  | .rst => false
  | .cWait => false
  | .cSeek1 => false
  | .cSeek0 => false
  | .cShift _ => false
  | .cFlag0 => false
  | .cFlag1 => false

/-- The operations of agent C (R89). -/
def Instr.isConsumer : Instr → Bool
  | .cWait => true
  | .cSeek1 => true
  | .cSeek0 => true
  | .cShift _ => true
  | .cFlag0 => true
  | .cFlag1 => true
  | .rst => false
  | .pIdle => false
  | .pRise _ => false
  | .pFall _ => false

end Sys2Proof
end

