-- ==== Sys2Proof/Certificates/Slice0/Obligations.lean ====
section
/-! DEFINITION. The statements for the provers. Each docstring names the rule of the spec it formalises; what
rests on a choice of the model names its log entry. "Notes" are the side histories of log 10.
-/

open Sys2Proof Sys2Proof.Machine

/-! ### Encodings -/

/-- Decode after encode is the identity on well-formed operations, at every timestamp width. -/
def Obligations.DecodeOfEncodeIsIdentity : Prop :=
  ∀ (tsW : Nat) (i : Instr), i.wellFormed tsW = true → decode tsW (encode tsW i) = .ok i

/-- R94: the three decodes by their fields. -/
def Obligations.OperationsDecodeByFields : Prop :=
  (∀ tsW t : Nat, t < 2 ^ tsW →
    decode tsW (.ev t) = .ok .pIdle ∧
    decode tsW (.ev (2 ^ tsW + t)) = .ok .pIdle ∧
    decode tsW (.ev (2 * 2 ^ tsW + t)) = .ok (.pFall t) ∧
    decode tsW (.ev (3 * 2 ^ tsW + t)) = .ok (.pRise t)) ∧
  (∀ p l b : Bool, decodeSel { n := false, p := p, l := l, b := b } = .cWait) ∧
  (∀ l b : Bool, decodeSel { n := true, p := false, l := l, b := b } = if b then .cSeek1 else .cSeek0) ∧
  (∀ b : Bool, decodeSel { n := true, p := true, l := false, b := b } = .cShift b) ∧
  (∀ b : Bool, decodeSel { n := true, p := true, l := true, b := b } = if b then .cFlag1 else .cFlag0) ∧
  (∀ s : State, s.clock true = exec .rst s.cycleStart) ∧
  (∀ (s : State) (p : Instr), decode s.cfg.tsW (.ev s.evPort) = .ok p →
    s.clock false = s.cycleStart.bothAgents p (decodeSel s.cycleStart.sel))

/-- R89, R90 (a): every EV word that fits the port is one operation of agent P with a timestamp of `TS_W` bits;
a wider word is none (log 9). -/
def Obligations.EvWordsDecodeExactlyWhenTheyFit : Prop :=
  ∀ tsW w : Nat,
    (w < 2 ^ (tsW + 2) →
      ∃ i, decode tsW (.ev w) = .ok i ∧ i.isProducer = true ∧ i.wellFormed tsW = true) ∧
    (2 ^ (tsW + 2) ≤ w → decode tsW (.ev w) = .error .evTooWide)

/-- A few words written out from the spec's encodings, at `TS_W = 32` (R80, R84, R89; the EV words are those of
program P4 and of the notation of the test vectors). -/
def Obligations.WordsOfTheSpecDecode : Prop :=
  decode 32 (.reset 1#1) = .ok .rst ∧
  decode 32 (.ev 0x000000000) = .ok .pIdle ∧
  decode 32 (.ev 0x3000003E8) = .ok (.pRise 1000) ∧
  decode 32 (.ev 0x200000401) = .ok (.pFall 1025) ∧
  decode 32 (.ev 0x20000007D) = .ok (.pFall 125) ∧
  decode 32 (.sel 0b0111#4) = .ok .cWait ∧
  decode 32 (.sel 0b1011#4) = .ok .cSeek1 ∧
  decode 32 (.sel 0b1010#4) = .ok .cSeek0 ∧
  decode 32 (.sel 0b1101#4) = .ok (.cShift true) ∧
  decode 32 (.sel 0b1110#4) = .ok .cFlag0 ∧
  decode 32 (.sel 0b1111#4) = .ok .cFlag1

/-! ### Steps -/

/-- R191, R190: a step performs the operation of the turn. Taking the turn uses up the turn, on agent P's turn
the presented word, and one number of the free values; where the schedule says nothing the turn is a free
value (log 4). -/
def Obligations.StepRunsTheOperationOfTheTurn : Prop :=
  (∀ (s : State) (σ : List Turn) (w : Nat) (es : List Nat) (i : Instr), s.sched = .producer :: σ →
    s.events = w :: es → decode s.cfg.tsW (.ev w) = .ok i →
    step s = exec i { s with sched := σ, events := es, freeCount := s.freeCount + 1 }) ∧
  (∀ (s : State) (σ : List Turn), s.sched = .producer :: σ → s.events = [] →
    step s = exec .pIdle { s with sched := σ, freeCount := s.freeCount + 1 }) ∧
  (∀ (s : State) (σ : List Turn), s.sched = .consumer :: σ →
    step s = exec (decodeSel s.sel) { s with sched := σ, freeCount := s.freeCount + 1 }) ∧
  (∀ (s : State) (σ : List Turn), s.sched = .reset :: σ →
    step s = exec .rst { s with sched := σ, freeCount := s.freeCount + 1 }) ∧
  (∀ s : State, s.sched = [] → step s = step { s with sched := [Config.freeTurn s.freeCount] })

/-- R190: the dispatch of agent C; exactly one bit is removed by every step of C but C.WAIT; and no step of C
looks ahead: with other bits behind the head it leaves the same state but for those bits. -/
def Obligations.ConsumerDispatch : Prop :=
  ∀ s : State,
    (s.q = [] → decodeSel s.sel = .cWait) ∧
    (∀ (b : Bool) (rest : List Bool), s.q = b :: rest →
      decodeSel s.sel =
        if s.phase = .seek then (if b = true then .cSeek1 else .cSeek0)
        else if s.bitCnt.val < 8 then .cShift b
        else (if b = false then .cFlag0 else .cFlag1)) ∧
    (s.cfg.WellFormed → ∃ t, exec (decodeSel s.sel) s = .next t ∧ t.q = s.q.tail) ∧
    (∀ (b : Bool) (rest rest' : List Bool) (t : State), s.q = b :: rest →
      exec (decodeSel s.sel) s = .next t →
      decodeSel { s with q := b :: rest' }.sel = decodeSel s.sel ∧
      exec (decodeSel s.sel) { s with q := b :: rest' } = .next { t with q := rest' })

/-- R6: an operation is refused for its configuration exactly when one of (a) to (e) fails. -/
def Obligations.IllFormedConfigurationRefused : Prop :=
  ∀ (i : Instr) (s : State),
    exec i s = .refused .illFormedConfig ↔
      ¬ (s.cfg.ticksMinOne ≤ s.cfg.ticksMaxOne ∧ s.cfg.ticksMinZero ≤ s.cfg.ticksMaxZero ∧
        s.cfg.ticksMaxOne < s.cfg.ticksMinZero ∧
        s.cfg.ticksMaxZero < 2 ^ s.cfg.tsW ∧
        1 ≤ s.cfg.preambleMin ∧ s.cfg.preambleMin ≤ 2 ^ s.cfg.cntW - 1 ∧
        s.cfg.minPacketLen ≤ s.cfg.pktMaxBytes ∧ 1 ≤ s.cfg.qDepth ∧ 1 ≤ s.cfg.pktMaxBytes)

/-- Log 8 (the model's choice): a consumer operation that the selector word does not select is refused by
name. -/
def Obligations.UnselectedOperationRefused : Prop :=
  ∀ (i : Instr) (s : State), s.cfg.WellFormed → i.isConsumer = true → decodeSel s.sel ≠ i →
    exec i s = .refused .notSelected

/-- R10, R90 (a): in every state that meets the invariants a step answers a next state. -/
def Obligations.EveryStepAnswersANextState : Prop :=
  ∀ s : State, s.Inv → ∃ t, step s = .next t

/-! ### Reset -/

/-- R240, with R38 and R218 (a): what RST leaves, as an operation and in a clock cycle with `rst = 1`, where
the presented event is lost. About `last_rise` only its width is said. -/
def Obligations.RstPutsTheResetState : Prop :=
  ∀ s : State, s.cfg.WellFormed →
    (∃ t, exec .rst s = .next t ∧ t.riseValid = false ∧ t.q = [] ∧ t.qOvf = false ∧ t.phase = .seek ∧
      t.oneCount = 0 ∧ t.bitCnt = 0 ∧ t.acc = 0x00#8 ∧ t.pkt = [] ∧ t.xorAcc = 0x00#8 ∧ t.pktOvf = false ∧
      t.out = [] ∧ t.lastRise < 2 ^ s.cfg.tsW ∧ t.cfg = s.cfg ∧ t.events = s.events ∧ t.sched = s.sched) ∧
    (∃ t, s.clock true = .next t ∧ t.riseValid = false ∧ t.q = [] ∧ t.qOvf = false ∧ t.phase = .seek ∧
      t.oneCount = 0 ∧ t.bitCnt = 0 ∧ t.acc = 0x00#8 ∧ t.pkt = [] ∧ t.xorAcc = 0x00#8 ∧ t.pktOvf = false ∧
      t.out = [] ∧ t.lastRise < 2 ^ s.cfg.tsW ∧ t.cfg = s.cfg ∧ t.events = s.events.tail ∧
      (s.pktPort t).valid = false)

/-- The state after reset meets the invariants under every well-formed configuration, and `State.reset` is that
state under the default one (log 1), with nothing presented (log 4). -/
def Obligations.ResetStateMeetsTheInvariants : Prop :=
  (∀ c : Config, c.WellFormed → (State.resetFor c).Inv) ∧
  State.reset = State.resetFor Config.default ∧ Config.default.WellFormed ∧
  ∀ c : Config, (State.resetFor c).decodeState = .initial ∧ (State.resetFor c).Quiescent ∧
    (State.resetFor c).Lossless ∧ (State.resetFor c).riseValid = false ∧ (State.resetFor c).out = []

/-! ### The producer -/

/-- R113: P.IDLE changes nothing, and an EV word with `v = 0` is P.IDLE whatever `k` and `t` hold. -/
def Obligations.PIdleChangesNothing : Prop :=
  (∀ s : State, s.cfg.WellFormed → exec .pIdle s = .next s) ∧
  ∀ tsW w : Nat, w < 2 ^ (tsW + 1) → decode tsW (.ev w) = .ok .pIdle

/-- R111: P.RISE latches the timestamp, also over a pending one, and changes nothing else. -/
def Obligations.PRiseLatchesTheTimestamp : Prop :=
  ∀ (s : State) (t : Nat), s.cfg.WellFormed → t < 2 ^ s.cfg.tsW →
    exec (.pRise t) s = .next { s with lastRise := t, riseValid := true }

/-- R112 with R51 and R114: P.FALL on every branch. -/
def Obligations.PFallClassifiesAndEnqueues : Prop :=
  ∀ (s : State) (t : Nat), s.cfg.WellFormed → t < 2 ^ s.cfg.tsW →
    (s.riseValid = false → exec (.pFall t) s = .next s) ∧
    (s.riseValid = true → ∀ d : Nat, (d : Int) = ((t : Int) - (s.lastRise : Int)) % 2 ^ s.cfg.tsW →
      (s.cfg.ticksMinOne ≤ d → d ≤ s.cfg.ticksMaxOne → s.q.length < s.cfg.qDepth →
        exec (.pFall t) s = .next { s with riseValid := false, q := s.q ++ [true] }) ∧
      (s.cfg.ticksMinZero ≤ d → d ≤ s.cfg.ticksMaxZero → s.q.length < s.cfg.qDepth →
        exec (.pFall t) s = .next { s with riseValid := false, q := s.q ++ [false] }) ∧
      ((s.cfg.ticksMinOne ≤ d ∧ d ≤ s.cfg.ticksMaxOne) ∨ (s.cfg.ticksMinZero ≤ d ∧ d ≤ s.cfg.ticksMaxZero) →
        s.cfg.qDepth ≤ s.q.length →
        exec (.pFall t) s =
          .next { s with riseValid := false, qOvf := true, pNotes := s.pNotes ++ [.queueOverflow] }) ∧
      (¬ (s.cfg.ticksMinOne ≤ d ∧ d ≤ s.cfg.ticksMaxOne) →
        ¬ (s.cfg.ticksMinZero ≤ d ∧ d ≤ s.cfg.ticksMaxZero) →
        exec (.pFall t) s = .next { s with riseValid := false, pNotes := s.pNotes ++ [.timingNoise] }))

/-- Log 9 (the model's choice): a timestamp operand that no word encodes acts as its low `TS_W` bits. -/
def Obligations.WideTimestampIsCut : Prop :=
  ∀ (s : State) (t : Nat),
    exec (.pRise t) s = exec (.pRise (t % 2 ^ s.cfg.tsW)) s ∧
    exec (.pFall t) s = exec (.pFall (t % 2 ^ s.cfg.tsW)) s

/-- R110: the classifier is the two inclusive windows, with the corner cases of the default calibration. -/
def Obligations.ClassifierIsTwoWindows : Prop :=
  (∀ (c : Config) (d : Nat), c.WellFormed →
    (classify c d = .one ↔ c.ticksMinOne ≤ d ∧ d ≤ c.ticksMaxOne) ∧
    (classify c d = .zero ↔ c.ticksMinZero ≤ d ∧ d ≤ c.ticksMaxZero) ∧
    (classify c d = .invalid ↔
      d < c.ticksMinOne ∨ (c.ticksMaxOne < d ∧ d < c.ticksMinZero) ∨ c.ticksMaxZero < d)) ∧
  [0, 11, 12, 38, 39, 67, 68, 150, 151, 2 ^ 32 - 1].map (classify Config.default) =
    [.invalid, .invalid, .one, .one, .invalid, .invalid, .zero, .zero, .invalid, .invalid]

/-- R114: the delta is the modular difference; it is the elapsed tick count when fewer than `2^TS_W` ticks pass,
also across a wrap of the counter. -/
def Obligations.DeltaIsElapsedTicks : Prop :=
  (∀ (c : Config) (tFall lastRise : Nat),
    (delta c tFall lastRise : Int) = ((tFall : Int) - (lastRise : Int)) % 2 ^ c.tsW) ∧
  (∀ (c : Config) (start elapsed : Nat), elapsed < 2 ^ c.tsW →
    delta c ((start + elapsed) % 2 ^ c.tsW) (start % 2 ^ c.tsW) = elapsed) ∧
  delta Config.default 0x00000009 0xFFFFFFF0 = 25

/-- R211: an Invalid delta changes nothing but `rise_valid`; the noise is noted, an orphan is not. -/
def Obligations.NoiseNeverReachesTheQueue : Prop :=
  ∀ (s : State) (t : Nat), s.cfg.WellFormed → t < 2 ^ s.cfg.tsW →
    (s.riseValid = true → classify s.cfg (delta s.cfg t s.lastRise) = .invalid →
      exec (.pFall t) s = .next { s with riseValid := false, pNotes := s.pNotes ++ [.timingNoise] }) ∧
    (s.riseValid = false → exec (.pFall t) s = .next s)

/-- R116 (a derivation of the spec): what agent P offers to `QPush` is a function of the event, the four window
parameters and its own two registers (and of the width `TS_W` of the event); what becomes of it depends on the
queue's occupancy and `Q_DEPTH` alone. The two states may differ in every other parameter. -/
def Obligations.ProducerReadsNoConsumerState : Prop :=
  ∀ (i : Instr) (s₁ s₂ t₁ t₂ : State), i.isProducer = true →
    s₁.cfg.ticksMinOne = s₂.cfg.ticksMinOne → s₁.cfg.ticksMaxOne = s₂.cfg.ticksMaxOne →
    s₁.cfg.ticksMinZero = s₂.cfg.ticksMinZero → s₁.cfg.ticksMaxZero = s₂.cfg.ticksMaxZero →
    s₁.cfg.tsW = s₂.cfg.tsW → s₁.lastRise = s₂.lastRise →
    s₁.riseValid = s₂.riseValid → exec i s₁ = .next t₁ → exec i s₂ = .next t₂ →
    t₁.lastRise = t₂.lastRise ∧ t₁.riseValid = t₂.riseValid ∧
    ((t₁.q = s₁.q ∧ t₁.qOvf = s₁.qOvf ∧ t₂.q = s₂.q ∧ t₂.qOvf = s₂.qOvf) ∨
     ∃ b : Bool,
      (s₁.q.length < s₁.cfg.qDepth → t₁.q = s₁.q ++ [b] ∧ t₁.qOvf = s₁.qOvf) ∧
      (s₂.q.length < s₂.cfg.qDepth → t₂.q = s₂.q ++ [b] ∧ t₂.qOvf = s₂.qOvf) ∧
      (s₁.cfg.qDepth ≤ s₁.q.length → t₁.q = s₁.q ∧ t₁.qOvf = true) ∧
      (s₂.cfg.qDepth ≤ s₂.q.length → t₂.q = s₂.q ∧ t₂.qOvf = true))

/-- R21 (a derivation of the spec): while no rising edge is pending, what `last_rise` holds changes nothing but
itself, whatever operation is performed. So no statement about the block rests on its value after reset
(logs 2, 3). -/
def Obligations.LastRiseUnobservableWhileNotPending : Prop :=
  ∀ (i : Instr) (s t : State) (x : Nat), s.riseValid = false → exec i s = .next t →
    ∃ y, exec i { s with lastRise := x } = .next { t with lastRise := y } ∧
      (t.riseValid = true → y = t.lastRise)

/-! ### The queue -/

/-- R51, R52, R54: the two queue primitives; what P.FALL offers, and that C.WAIT follows an Empty. -/
def Obligations.QueuePrimitives : Prop :=
  (∀ (s : State) (b : Bool), s.q.length < s.cfg.qDepth → s.qPush b = { s with q := s.q ++ [b] }) ∧
  (∀ (s : State) (b : Bool), s.cfg.qDepth ≤ s.q.length →
    s.qPush b = { s with qOvf := true, pNotes := s.pNotes ++ [.queueOverflow] }) ∧
  (∀ s : State, s.q = [] → s.qPop = none) ∧
  (∀ (s : State) (b : Bool) (rest : List Bool), s.q = b :: rest → s.qPop = some (b, { s with q := rest })) ∧
  (∀ s : State, s.takeClass .one = s.qPush true ∧ s.takeClass .zero = s.qPush false ∧
    (s.takeClass .invalid).q = s.q ∧ (s.takeClass .invalid).qOvf = s.qOvf) ∧
  (∀ s : State, s.qPop = none → decodeSel s.sel = .cWait)

/-- R53: over every interleaving of pushes and pops the bits leave in the order in which they were accepted,
and while `q_ovf` is 0 the popped bits are a prefix of the offered ones. -/
def Obligations.QueueIsFifo : Prop :=
  ∀ (uses : List QueueUse) (s : State),
    s.q ++ (s.useQueue uses).2.1 = (s.useQueue uses).2.2 ++ (s.useQueue uses).1.q ∧
    (List.Sublist (s.useQueue uses).2.1 (offeredBits uses)) ∧
    ((s.useQueue uses).1.qOvf = false → (s.useQueue uses).2.1 = offeredBits uses) ∧
    (s.q = [] → (s.useQueue uses).1.qOvf = false → (s.useQueue uses).2.2 <+: offeredBits uses)

/-- R24: `q_ovf` is set exactly when a classified bit meets a full queue, is cleared only by RST, and is 0 after
reset. -/
def Obligations.QOvfIsSticky : Prop :=
  (∀ (i : Instr) (s t : State), i ≠ .rst → exec i s = .next t →
    (t.qOvf = true ↔ s.qOvf = true ∨
      (s.riseValid = true ∧ s.cfg.qDepth ≤ s.q.length ∧
        ∃ u, i = .pFall u ∧
          classify s.cfg (delta s.cfg (u % 2 ^ s.cfg.tsW) s.lastRise) ≠ .invalid))) ∧
  (∀ s t : State, exec .rst s = .next t → t.qOvf = false) ∧ State.reset.qOvf = false

/-! ### The Preamble Detector -/

/-- R130: C.WAIT, in either phase, changes no element of the block; QueueUnderrun is noted. -/
def Obligations.CWaitChangesNothing : Prop :=
  ∀ s : State, s.cfg.WellFormed → s.q = [] →
    exec .cWait s = .next { s with cNotes := s.cNotes ++ [.queueUnderrun] }

/-- R131: C.SEEK1 pops a One and counts it, saturating at `2^CNT_W − 1`. -/
def Obligations.CSeek1CountsAOne : Prop :=
  ∀ (s : State) (rest : List Bool), s.cfg.WellFormed → s.phase = .seek → s.q = true :: rest →
    exec .cSeek1 s =
      .next { s with
        q := rest
        oneCount := if s.oneCount < 2 ^ s.cfg.cntW - 1 then s.oneCount + 1 else s.oneCount }

/-- R132: C.SEEK0 pops a Zero: a hit at `PREAMBLE_MIN` or more, else a miss. -/
def Obligations.CSeek0HitsOrMisses : Prop :=
  ∀ (s : State) (rest : List Bool), s.cfg.WellFormed → s.phase = .seek → s.q = false :: rest →
    (s.cfg.preambleMin ≤ s.oneCount →
      exec .cSeek0 s = .next { s with q := rest, phase := .frame, oneCount := 0 }) ∧
    (s.oneCount < s.cfg.preambleMin →
      exec .cSeek0 s =
        .next { s with q := rest, oneCount := 0, cNotes := s.cNotes ++ [.incompletePreamble] })

/-- R134 and R133 (derivations of the spec): a run of `n` ones and a Zero, with `c` ones already counted, is a
preamble iff `c + n ≥ PREAMBLE_MIN`; the detector frames at the Zero and not before, however long the run. -/
def Obligations.PreambleIsARunOfEnoughOnes : Prop :=
  ∀ (s : State) (n : Nat) (rest : List Bool) (σ : List Turn), s.cfg.WellFormed → s.phase = .seek →
    s.q = List.replicate n true ++ false :: rest →
    s.sched = List.replicate (n + 1) Turn.consumer ++ σ →
    (∀ k ≤ n, ∃ u, s.runFor k = .next u ∧ u.phase = .seek) ∧
    ∃ t, s.runFor (n + 1) = .next t ∧ t.q = rest ∧ t.sched = σ ∧ t.oneCount = 0 ∧
      (t.phase = .frame ↔ s.cfg.preambleMin ≤ s.oneCount + n) ∧
      t.bitCnt = s.bitCnt ∧ t.acc = s.acc ∧ t.pkt = s.pkt ∧ t.xorAcc = s.xorAcc ∧ t.out = s.out ∧
      t.qOvf = s.qOvf ∧ t.pktOvf = s.pktOvf ∧ t.lastRise = s.lastRise ∧ t.riseValid = s.riseValid

/-! ### The Packet Framer and the validator -/

/-- R150: C.SHIFT pops a data bit and shifts it in at bit 0; the bit shifted out of bit 7 is 0 in every state
that meets the invariants; eight bits shifted into a cleared accumulator are the byte, the first at bit 7. -/
def Obligations.CShiftShiftsABitIn : Prop :=
  (∀ (s : State) (b : Bool) (rest : List Bool), s.cfg.WellFormed → s.phase = .frame → s.bitCnt.val < 8 →
    s.q = b :: rest →
    ∃ t, exec (.cShift b) s = .next t ∧ t = { s with q := rest, acc := t.acc, bitCnt := t.bitCnt } ∧
      t.acc.toNat = (2 * s.acc.toNat + b.toNat) % 256 ∧ t.bitCnt.val = s.bitCnt.val + 1 ∧
      (s.Inv → s.acc.getLsbD 7 = false)) ∧
  ∀ v : Byte, (byteBits v).foldl shiftIn 0x00#8 = v

/-- R151: C.FLAG0 appends the byte, or abandons the frame when the packet buffer is full. -/
def Obligations.CFlag0AppendsTheByte : Prop :=
  ∀ (s : State) (rest : List Bool), s.cfg.WellFormed → s.phase = .frame → s.bitCnt.val = 8 →
    s.q = false :: rest →
    (s.pkt.length < s.cfg.pktMaxBytes →
      exec .cFlag0 s =
        .next { s with
          q := rest, pkt := s.pkt ++ [s.acc], xorAcc := s.xorAcc ^^^ s.acc, acc := 0x00#8, bitCnt := 0 }) ∧
    (s.cfg.pktMaxBytes ≤ s.pkt.length →
      exec .cFlag0 s =
        .next { s with
          q := rest, pktOvf := true, phase := .seek, oneCount := 0, bitCnt := 0, acc := 0x00#8, pkt := []
          xorAcc := 0x00#8, cNotes := s.cNotes ++ [.packetOverflow] })

/-- R152, R171, R175: C.FLAG1 emits the complete packet, drops it when it is too short, or abandons the frame
when the packet buffer is full; the decode state returns to `DS0` in every branch. -/
def Obligations.CFlag1EndsThePacket : Prop :=
  ∀ (s : State) (rest : List Bool), s.cfg.WellFormed → s.phase = .frame → s.bitCnt.val = 8 →
    s.q = true :: rest →
    (s.pkt.length < s.cfg.pktMaxBytes → s.cfg.minPacketLen ≤ s.pkt.length + 1 →
      exec .cFlag1 s =
        .next { s with
          q := rest, phase := .seek, oneCount := 0, bitCnt := 0, acc := 0x00#8, pkt := [], xorAcc := 0x00#8
          out := s.out ++ [{ bytes := s.pkt ++ [s.acc], xorOk := decide (s.xorAcc ^^^ s.acc = 0x00#8) }] }) ∧
    (s.pkt.length < s.cfg.pktMaxBytes → s.pkt.length + 1 < s.cfg.minPacketLen →
      exec .cFlag1 s =
        .next { s with
          q := rest, phase := .seek, oneCount := 0, bitCnt := 0, acc := 0x00#8, pkt := [], xorAcc := 0x00#8
          cNotes := s.cNotes ++ [.shortPacket] }) ∧
    (s.cfg.pktMaxBytes ≤ s.pkt.length →
      exec .cFlag1 s =
        .next { s with
          q := rest, pktOvf := true, phase := .seek, oneCount := 0, bitCnt := 0, acc := 0x00#8, pkt := []
          xorAcc := 0x00#8, cNotes := s.cNotes ++ [.packetOverflow] })

/-- R39, R174: `DecodeReset()` writes `DS0` and touches nothing else; `DS0` is the decode state of `S0`. -/
def Obligations.DecodeResetWritesTheInitialDecodeState : Prop :=
  ∀ s : State,
    s.decodeReset.decodeState = .initial ∧
    s.decodeReset =
      { s with
        phase := .seek, oneCount := 0, bitCnt := 0, acc := 0x00#8, pkt := [], xorAcc := 0x00#8 } ∧
    (State.resetFor s.cfg).decodeState = .initial

/-- R55: the first data bit of a group becomes bit 7 of the byte and the eighth bit 0, a One as 1. -/
def Obligations.FirstDataBitIsBitSeven : Prop :=
  ∀ (s : State) (b₀ b₁ b₂ b₃ b₄ b₅ b₆ b₇ : Bool) (rest : List Bool) (σ : List Turn),
    s.cfg.WellFormed → s.phase = .frame → s.bitCnt = 0 →
    s.q = b₀ :: b₁ :: b₂ :: b₃ :: b₄ :: b₅ :: b₆ :: b₇ :: rest →
    s.sched = List.replicate 8 Turn.consumer ++ σ →
    ∃ t, s.runFor 8 = .next t ∧ t.bitCnt.val = 8 ∧ t.phase = .frame ∧ t.q = rest ∧ t.pkt = s.pkt ∧
      t.out = s.out ∧
      [t.acc.getLsbD 7, t.acc.getLsbD 6, t.acc.getLsbD 5, t.acc.getLsbD 4, t.acc.getLsbD 3, t.acc.getLsbD 2,
        t.acc.getLsbD 1, t.acc.getLsbD 0] = [b₀, b₁, b₂, b₃, b₄, b₅, b₆, b₇] ∧
      t.acc.toNat = 128 * b₀.toNat + 64 * b₁.toNat + 32 * b₂.toNat + 16 * b₃.toNat + 8 * b₄.toNat +
        4 * b₅.toNat + 2 * b₆.toNat + b₇.toNat

/-- R154: a complete byte that meets a full packet buffer abandons the frame; a packet of exactly
`PKT_MAX_BYTES` bytes is no overflow; the bits that follow are read by the detector. -/
def Obligations.PacketBufferOverflow : Prop :=
  ∀ (s : State) (b : Bool) (rest : List Bool), s.cfg.WellFormed → s.phase = .frame → s.bitCnt.val = 8 →
    s.q = b :: rest →
    ∃ t, exec (decodeSel s.sel) s = .next t ∧
      (s.pkt.length = s.cfg.pktMaxBytes →
        t.pktOvf = true ∧ t.out = s.out ∧ t.decodeState = .initial ∧ t.q = rest ∧
        (decodeSel t.sel = .cWait ∨ decodeSel t.sel = .cSeek1 ∨ decodeSel t.sel = .cSeek0)) ∧
      (s.pkt.length + 1 = s.cfg.pktMaxBytes → b = true →
        t.pktOvf = s.pktOvf ∧ ∃ p, t.out = s.out ++ [p] ∧ p.bytes = s.pkt ++ [s.acc])

/-- R31: `pkt_ovf` is set exactly when a complete byte meets a full packet buffer, is cleared only by RST, and
is 0 after reset. -/
def Obligations.PktOvfIsSticky : Prop :=
  (∀ (i : Instr) (s t : State), i ≠ .rst → exec i s = .next t →
    (t.pktOvf = true ↔ s.pktOvf = true ∨
      ((i = .cFlag0 ∨ i = .cFlag1) ∧ s.cfg.pktMaxBytes ≤ s.pkt.length))) ∧
  (∀ s t : State, exec .rst s = .next t → t.pktOvf = false) ∧ State.reset.pktOvf = false

/-- R172: `xor_ok` is the exclusive-or of the emitted bytes against zero, equally the last byte against the
exclusive-or of those before it, and it gates nothing: with any other value of `xor_acc` the same bytes are
emitted and the same state is left. -/
def Obligations.XorOkIsAdvisory : Prop :=
  ∀ s t : State, s.Inv → exec .cFlag1 s = .next t →
    (t.out = s.out ∨ ∃ p, t.out = s.out ++ [p] ∧
      (p.xorOk = true ↔ xorBytes p.bytes = 0x00#8) ∧
      (p.xorOk = true ↔ p.bytes.getLast? = some (xorBytes p.bytes.dropLast))) ∧
    ∀ x : Byte, ∃ t', exec .cFlag1 { s with xorAcc := x } = .next t' ∧
      t'.out.map Packet.bytes = t.out.map Packet.bytes ∧ t' = { t with out := t'.out }

/-- R173, R193 (a derivation of the spec): at most one packet is emitted by an operation, only by C.FLAG1, and
in the operation that returns the decode state to `DS0`. -/
def Obligations.OnlyFlag1Emits : Prop :=
  ∀ (i : Instr) (s t : State), i ≠ .rst → exec i s = .next t →
    t.out = s.out ∨
    (i = .cFlag1 ∧ s.pkt.length < s.cfg.pktMaxBytes ∧ s.cfg.minPacketLen ≤ s.pkt.length + 1 ∧
      t.out = s.out ++ [{ bytes := s.pkt ++ [s.acc], xorOk := decide (s.xorAcc ^^^ s.acc = 0x00#8) }] ∧
      t.decodeState = .initial)

/-- R88: the PKT word of a clock cycle: the packet on its lanes when one is handed off, `pkt_valid = 0`
otherwise, every port within its width. -/
def Obligations.PktPortCarriesThePacket : Prop :=
  ∀ s t : State, s.Inv → s.clock false = .next t →
    (t.out = s.out ∧ (s.pktPort t).valid = false) ∨
    ∃ p, t.out = s.out ++ [p] ∧ (s.pktPort t).valid = true ∧ (s.pktPort t).len = p.bytes.length ∧
      1 ≤ (s.pktPort t).len ∧ (s.pktPort t).len ≤ s.cfg.pktMaxBytes ∧ (s.pktPort t).len < 2 ^ lenW s.cfg ∧
      (s.pktPort t).data < 2 ^ (8 * s.cfg.pktMaxBytes) ∧
      (∀ (n : Nat) (h : n < p.bytes.length), (s.pktPort t).data / 2 ^ (8 * n) % 2 ^ 8 = (p.bytes[n]).toNat) ∧
      (s.pktPort t).xorOk = p.xorOk

/-! ### Whole-machine rules -/

/-- R35: how each operation advances `(phase, bit_cnt)`. -/
def Obligations.ControlStateAdvances : Prop :=
  ∀ (i : Instr) (s t : State), s.Inv → exec i s = .next t →
    (s.phase = .seek → s.bitCnt = 0) ∧
    (i.isProducer = true → t.phase = s.phase ∧ t.bitCnt = s.bitCnt) ∧
    (i = .cWait → t.phase = s.phase ∧ t.bitCnt = s.bitCnt) ∧
    (i = .cSeek1 → t.phase = .seek ∧ t.bitCnt = 0) ∧
    (i = .cSeek0 → t.bitCnt = 0 ∧ (t.phase = .frame ↔ s.cfg.preambleMin ≤ s.oneCount)) ∧
    (∀ b, i = .cShift b → t.phase = .frame ∧ t.bitCnt.val = s.bitCnt.val + 1) ∧
    (i = .cFlag0 → t.bitCnt = 0 ∧ (t.phase = .seek ↔ s.pkt.length = s.cfg.pktMaxBytes)) ∧
    (i = .cFlag1 → t.phase = .seek ∧ t.bitCnt = 0) ∧
    (i = .rst → t.phase = .seek ∧ t.bitCnt = 0)

/-- R20, R33, R50: each agent writes its own state; P only appends to the queue, C only shortens it; no
operation writes the configuration, the events or the schedule. -/
def Obligations.AgentsWriteTheirOwnState : Prop :=
  ∀ (i : Instr) (s t : State), exec i s = .next t →
    t.cfg = s.cfg ∧ t.events = s.events ∧ t.sched = s.sched ∧
    (i.isProducer = true →
      t = { s with
        lastRise := t.lastRise, riseValid := t.riseValid, q := t.q, qOvf := t.qOvf, pNotes := t.pNotes } ∧
      (t.q = s.q ∨ ∃ b, t.q = s.q ++ [b])) ∧
    (i.isConsumer = true →
      t = { s with
        q := t.q, phase := t.phase, oneCount := t.oneCount, bitCnt := t.bitCnt, acc := t.acc, pkt := t.pkt
        xorAcc := t.xorAcc, pktOvf := t.pktOvf, out := t.out, cNotes := t.cNotes } ∧
      t.q = s.q.tail)

/-- R60 (e), R20: agent C reads nothing of agent P's but the queue: an operation of C does the same whatever
agent P's own registers, the events and the schedule are. -/
def Obligations.ConsumerReadsNoProducerState : Prop :=
  ∀ (i : Instr) (s t : State) (x : Nat) (v o : Bool) (es : List Nat) (σ : List Turn), i.isConsumer = true →
    exec i s = .next t →
    exec i { s with lastRise := x, riseValid := v, qOvf := o, events := es, sched := σ } =
      .next { t with lastRise := x, riseValid := v, qOvf := o, events := es, sched := σ }

/-- R210: an anomaly is noted only by the operation the table names, for its cause and with its state change
and no other; and where its cause is present, it is noted. -/
def Obligations.AnomaliesAsTabled : Prop :=
  ∀ (i : Instr) (s t : State), i ≠ .rst → exec i s = .next t →
    (t.pNotes = s.pNotes ∨
      (t.pNotes = s.pNotes ++ [.timingNoise] ∧
        (∃ u, i = .pFall u ∧ s.riseValid = true ∧
          classify s.cfg (delta s.cfg (u % 2 ^ s.cfg.tsW) s.lastRise) = .invalid) ∧
        t = { s with riseValid := false, pNotes := t.pNotes }) ∨
      (t.pNotes = s.pNotes ++ [.queueOverflow] ∧
        (∃ u, i = .pFall u ∧ s.riseValid = true ∧
          classify s.cfg (delta s.cfg (u % 2 ^ s.cfg.tsW) s.lastRise) ≠ .invalid) ∧
        s.cfg.qDepth ≤ s.q.length ∧
        t = { s with riseValid := false, qOvf := true, pNotes := t.pNotes })) ∧
    (t.cNotes = s.cNotes ∨
      (t.cNotes = s.cNotes ++ [.incompletePreamble] ∧ i = .cSeek0 ∧ s.oneCount < s.cfg.preambleMin ∧
        t = { s with q := s.q.tail, oneCount := 0, cNotes := t.cNotes }) ∨
      (t.cNotes = s.cNotes ++ [.queueUnderrun] ∧ i = .cWait ∧ s.q = [] ∧ t = { s with cNotes := t.cNotes }) ∨
      (t.cNotes = s.cNotes ++ [.shortPacket] ∧ i = .cFlag1 ∧ s.pkt.length < s.cfg.pktMaxBytes ∧
        s.pkt.length + 1 < s.cfg.minPacketLen ∧
        t = { s.decodeReset with q := s.q.tail, cNotes := t.cNotes }) ∨
      (t.cNotes = s.cNotes ++ [.packetOverflow] ∧ (i = .cFlag0 ∨ i = .cFlag1) ∧
        s.cfg.pktMaxBytes ≤ s.pkt.length ∧
        t = { s.decodeReset with q := s.q.tail, pktOvf := true, cNotes := t.cNotes })) ∧
    (∀ u, i = .pFall u → s.riseValid = true →
      (classify s.cfg (delta s.cfg (u % 2 ^ s.cfg.tsW) s.lastRise) = .invalid →
        t.pNotes = s.pNotes ++ [.timingNoise]) ∧
      (classify s.cfg (delta s.cfg (u % 2 ^ s.cfg.tsW) s.lastRise) ≠ .invalid →
        s.cfg.qDepth ≤ s.q.length → t.pNotes = s.pNotes ++ [.queueOverflow])) ∧
    (i = .cSeek0 → s.oneCount < s.cfg.preambleMin → t.cNotes = s.cNotes ++ [.incompletePreamble]) ∧
    (i = .cWait → t.cNotes = s.cNotes ++ [.queueUnderrun]) ∧
    (i = .cFlag1 → s.pkt.length < s.cfg.pktMaxBytes → s.pkt.length + 1 < s.cfg.minPacketLen →
      t.cNotes = s.cNotes ++ [.shortPacket]) ∧
    (i = .cFlag0 ∨ i = .cFlag1 → s.cfg.pktMaxBytes ≤ s.pkt.length →
      t.cNotes = s.cNotes ++ [.packetOverflow])

/-- R218 (f): an operation raises at most one anomaly. -/
def Obligations.AtMostOneAnomalyPerOperation : Prop :=
  ∀ (i : Instr) (s t : State), i ≠ .rst → exec i s = .next t →
    s.pNotes <+: t.pNotes ∧ s.cNotes <+: t.cNotes ∧
    t.pNotes.length + t.cNotes.length ≤ s.pNotes.length + s.cNotes.length + 1

/-- R36 (a derivation of the spec): the invariants are kept by every step, from every state that meets them. -/
def Obligations.InvariantsKeptByStep : Prop :=
  ∀ s t : State, s.Inv → step s = .next t → t.Inv

/-- The invariants of R36 are kept by every clock cycle, with `rst` at either value. -/
def Obligations.InvariantsKeptByClock : Prop :=
  ∀ (rst : Bool) (s t : State), s.Inv → s.clock rst = .next t → t.Inv

/-! ### Schedules -/

/-- R63: a clock cycle is one of the two orders of its two operations: P then C when the queue is full at the
start of the cycle, C then P when it is empty, either otherwise. -/
def Obligations.ClockCycleIsAnInterleaving : Prop :=
  ∀ (s : State) (p : Instr), decode s.cfg.tsW (.ev s.evPort) = .ok p →
    (s.cfg.qDepth ≤ s.q.length → s.clock false = s.cycleStart.producerFirst p) ∧
    (s.q = [] → s.clock false = s.cycleStart.consumerFirst p) ∧
    (s.q ≠ [] → s.q.length < s.cfg.qDepth →
      s.clock false = s.cycleStart.producerFirst p ∧ s.clock false = s.cycleStart.consumerFirst p)

/-- R248 (a derivation of the spec): under the cycle schedule at most one bit ever waits, so no bit is dropped at
any queue depth. -/
def Obligations.ClockNeverOverflowsTheQueue : Prop :=
  ∀ s t : State, s.AtMostOneBit → s.clock false = .next t → t.AtMostOneBit ∧ t.qOvf = s.qOvf

/-- R62 (a derivation of the spec): two schedules of the same events that both reach quiescence without an
overflow of the queue leave the same registers, decode state, flags and packets. -/
def Obligations.QuiescentResultIsScheduleIndependent : Prop :=
  ∀ (s t₁ t₂ : State) (σ₁ σ₂ : List Turn), .reset ∉ σ₁ → .reset ∉ σ₂ →
    { s with sched := σ₁ }.runFor σ₁.length = .next t₁ →
    { s with sched := σ₂ }.runFor σ₂.length = .next t₂ →
    t₁.Quiescent → t₂.Quiescent → t₁.qOvf = false → t₂.qOvf = false →
    t₁.decodeState = t₂.decodeState ∧ t₁.pktOvf = t₂.pktOvf ∧ t₁.out = t₂.out ∧
      t₁.lastRise = t₂.lastRise ∧ t₁.riseValid = t₂.riseValid ∧ t₁.pNotes = t₂.pNotes

/-- R197: in a quiescent state a turn of agent C is C.WAIT and a turn of agent P is P.IDLE; the block does not
change. -/
def Obligations.QuiescentStateIsFinal : Prop :=
  ∀ (s : State) (σ : List Turn), s.cfg.WellFormed → s.Quiescent →
    (s.sched = .consumer :: σ →
      step s = .next { s with
        sched := σ, freeCount := s.freeCount + 1, cNotes := s.cNotes ++ [.queueUnderrun] }) ∧
    (s.sched = .producer :: σ → step s = .next { s with sched := σ, freeCount := s.freeCount + 1 })

/-- R197 (a derivation of the spec): twice the events to come and the bits waiting never grow but by RST, and
shrink at every step that has an event or a bit to take. -/
def Obligations.StepsApproachQuiescence : Prop :=
  ∀ s t : State, s.turn ≠ .reset → step s = .next t →
    2 * t.events.length + t.q.length ≤ 2 * s.events.length + s.q.length ∧
    ((s.turn = .producer ∧ s.events ≠ []) ∨ (s.turn = .consumer ∧ s.q ≠ []) →
      2 * t.events.length + t.q.length < 2 * s.events.length + s.q.length)

/-! ### Packets -/

/-- R156 and the consumer's half of R177 (derivations of the spec): the bits of a packet, in the queue of a block
in the initial decode state, are decoded in exactly `n + 1 + 9k` turns of agent C to that packet and nothing
else; the bits behind it stay queued. -/
def Obligations.PacketBitsDecodeToThePacket : Prop :=
  ∀ (s : State) (n : Nat) (bytes : List Byte) (rest : List Bool) (σ : List Turn),
    s.cfg.WellFormed → s.decodeState = .initial → s.cfg.preambleMin ≤ n → bytes ≠ [] →
    s.cfg.minPacketLen ≤ bytes.length → bytes.length ≤ s.cfg.pktMaxBytes →
    s.q = packetBits n bytes ++ rest →
    s.sched = List.replicate (n + 1 + 9 * bytes.length) Turn.consumer ++ σ →
    ∃ m, s.runFor (n + 1 + 9 * bytes.length) =
      .next { s with
        q := rest
        out := s.out ++ [{ bytes := bytes, xorOk := decide (xorBytes bytes = 0x00#8) }]
        sched := σ
        freeCount := m }

/-- R198 (a derivation of the spec): two packets back to back yield exactly these two packets, in order. -/
def Obligations.BackToBackPacketsDecode : Prop :=
  ∀ (s : State) (n₁ n₂ : Nat) (a b : List Byte) (rest : List Bool) (σ : List Turn),
    s.cfg.WellFormed → s.decodeState = .initial → s.cfg.preambleMin ≤ n₁ → s.cfg.preambleMin ≤ n₂ →
    a ≠ [] → b ≠ [] → s.cfg.minPacketLen ≤ a.length → s.cfg.minPacketLen ≤ b.length →
    a.length ≤ s.cfg.pktMaxBytes → b.length ≤ s.cfg.pktMaxBytes →
    s.q = packetBits n₁ a ++ packetBits n₂ b ++ rest →
    s.sched = List.replicate (n₁ + n₂ + 2 + 9 * (a.length + b.length)) Turn.consumer ++ σ →
    ∃ t, s.runFor (n₁ + n₂ + 2 + 9 * (a.length + b.length)) = .next t ∧ t.q = rest ∧
      t.decodeState = .initial ∧ t.pktOvf = s.pktOvf ∧
      t.out.map Packet.bytes = s.out.map Packet.bytes ++ [a, b]

/-- R177 under the cycle schedule (a derivation of the spec): a train of pulses, noise among them, whose bits are
those of a packet is decoded by the clocked block to exactly that packet, with no overflow. -/
def Obligations.ClockedRoundTrip : Prop :=
  ∀ (s : State) (start n : Nat) (bytes : List Byte) (pulses : List (Nat × Nat)),
    s.cfg.WellFormed → s.decodeState = .initial → s.q = [] → s.cfg.preambleMin ≤ n → bytes ≠ [] →
    s.cfg.minPacketLen ≤ bytes.length → bytes.length ≤ s.cfg.pktMaxBytes →
    (∀ x ∈ pulses, x.1 < 2 ^ s.cfg.tsW) → pulseBits s.cfg pulses = packetBits n bytes →
    s.events = pulseWords s.cfg.tsW start pulses →
    ∃ t, s.clockFor (2 * pulses.length + 1) = .next t ∧ t.Quiescent ∧ t.decodeState = .initial ∧
      t.qOvf = s.qOvf ∧ t.pktOvf = s.pktOvf ∧
      t.out = s.out ++ [{ bytes := bytes, xorOk := decide (xorBytes bytes = 0x00#8) }]

/-! ### Fairness (R192)

Runs under a schedule without end. None of these statements asks anything of the turns of agent P or of the
events: no fairness is assumed of the source. -/

/-- From a state that meets the invariants no schedule stops the run: every step of it answers a next state, which
meets the invariants again. -/
def Obligations.RunsNeverStop : Prop :=
  ∀ (s : State) (σ : Schedule), s.Inv → ∀ k,
    (s.runUnder σ k).Inv ∧ step ((s.runUnder σ k).inTurn (σ k)) = .next (s.runUnder σ (k + 1))

/-- R192: under a fair schedule without a reset, a bit that waits at the head of the queue stays there until the
next turn of agent C, which comes and removes it. -/
def Obligations.FairRunTakesTheHeadBit : Prop :=
  ∀ (s : State) (σ : Schedule), s.Inv → σ.Fair → σ.ResetFree → ∀ (n : Nat) (b : Bool) (rest : List Bool),
    (s.runUnder σ n).q = b :: rest →
    ∃ k, n ≤ k ∧ σ k = .consumer ∧ (∀ j, n ≤ j → j < k → σ j ≠ .consumer) ∧
      (∀ j, n ≤ j → j ≤ k → (b :: rest) <+: (s.runUnder σ j).q) ∧
      rest <+: (s.runUnder σ (k + 1)).q ∧ (s.runUnder σ (k + 1)).q.length + 1 = (s.runUnder σ k).q.length

/-- R192, R197 (a derivation of the spec): under a fair schedule without a reset, once the source has presented its
last event the run becomes quiescent, and from then on the block's registers, flags and output do not change. -/
def Obligations.FairRunBecomesQuiescent : Prop :=
  ∀ (s : State) (σ : Schedule), s.Inv → σ.Fair → σ.ResetFree → ∀ n, (s.runUnder σ n).events = [] →
    ∃ k, n ≤ k ∧ ∀ j, k ≤ j →
      (s.runUnder σ j).Quiescent ∧ (s.runUnder σ j).decodeState = (s.runUnder σ k).decodeState ∧
      (s.runUnder σ j).observed = (s.runUnder σ k).observed ∧
      (s.runUnder σ j).lastRise = (s.runUnder σ k).lastRise ∧
      (s.runUnder σ j).riseValid = (s.runUnder σ k).riseValid

/-- R192 with R177: under a fair schedule without a reset, a packet whose bits wait in the queue of a block in the
initial decode state is emitted in the end, before anything else is, whatever agent P does meanwhile. -/
def Obligations.FairRunEmitsThePacket : Prop :=
  ∀ (s : State) (σ : Schedule) (n : Nat) (bytes : List Byte) (rest : List Bool), s.Inv → σ.Fair → σ.ResetFree →
    s.decodeState = .initial → s.cfg.preambleMin ≤ n → bytes ≠ [] → s.cfg.minPacketLen ≤ bytes.length →
    bytes.length ≤ s.cfg.pktMaxBytes → s.q = packetBits n bytes ++ rest →
    ∃ k, (s.runUnder σ k).out = s.out ++ [{ bytes := bytes, xorOk := decide (xorBytes bytes = 0x00#8) }] ∧
      (s.runUnder σ k).decodeState = .initial ∧ rest <+: (s.runUnder σ k).q

/-- R192, its last but one sentence: where agent C has no turn any more nothing is emitted and the queue only
grows; and a source that keeps presenting pulses overflows it, whatever `Q_DEPTH` is. -/
def Obligations.UnfairRunEmitsNothingAndOverflows : Prop :=
  (∀ (s : State) (σ : Schedule) (n : Nat), s.Inv → (∀ k, n ≤ k → σ k = .producer) → ∀ k, n ≤ k →
    (s.runUnder σ k).out = (s.runUnder σ n).out ∧
    (s.runUnder σ k).decodeState = (s.runUnder σ n).decodeState ∧
    (s.runUnder σ n).q <+: (s.runUnder σ k).q) ∧
  (∀ (s : State) (σ : Schedule) (start : Nat) (pulses : List (Nat × Nat)) (es : List Nat), s.Inv →
    (∀ k, σ k = .producer) → (∀ x ∈ pulses, x.1 < 2 ^ s.cfg.tsW) →
    s.events = pulseWords s.cfg.tsW start pulses ++ es →
    s.cfg.qDepth < s.q.length + (pulseBits s.cfg pulses).length →
    (s.runUnder σ (2 * pulses.length)).qOvf = true)

/-- R192 with R63: the cycle schedule is fair. Its `k` cycles are the first `2k` steps of the run under one
schedule in which each pair of turns is one of agent P and one of agent C (the counter of log 5 apart). -/
def Obligations.ClockRunIsAFairRun : Prop :=
  ∀ s : State, s.Inv →
    ∃ σ : Schedule, σ.Fair ∧ σ.ResetFree ∧
      (∀ k, (σ (2 * k) = .producer ∧ σ (2 * k + 1) = .consumer) ∨
        (σ (2 * k) = .consumer ∧ σ (2 * k + 1) = .producer)) ∧
      ∀ k, ∃ t m, s.clockFor k = .next t ∧ s.runUnder σ (2 * k) = { t with freeCount := m }
end

