-- ==== Sys2Proof/Laws/State.lean ====
section
/-! SUPPORT. The fields of every named update of the state, one lemma per field per update, so that no later
proof unfolds a record update.
-/

namespace Sys2Proof.Machine

variable (s : State)

/-! `State.decodeReset` (R174). -/

@[simp] theorem State.decodeReset_cfg : (s.decodeReset).cfg = s.cfg := rfl
@[simp] theorem State.decodeReset_lastRise : (s.decodeReset).lastRise = s.lastRise := rfl
@[simp] theorem State.decodeReset_riseValid : (s.decodeReset).riseValid = s.riseValid := rfl
@[simp] theorem State.decodeReset_q : (s.decodeReset).q = s.q := rfl
@[simp] theorem State.decodeReset_qOvf : (s.decodeReset).qOvf = s.qOvf := rfl
@[simp] theorem State.decodeReset_phase : (s.decodeReset).phase = .seek := rfl
@[simp] theorem State.decodeReset_oneCount : (s.decodeReset).oneCount = 0 := rfl
@[simp] theorem State.decodeReset_bitCnt : (s.decodeReset).bitCnt = 0 := rfl
@[simp] theorem State.decodeReset_acc : (s.decodeReset).acc = 0x00#8 := rfl
@[simp] theorem State.decodeReset_pkt : (s.decodeReset).pkt = [] := rfl
@[simp] theorem State.decodeReset_xorAcc : (s.decodeReset).xorAcc = 0x00#8 := rfl
@[simp] theorem State.decodeReset_pktOvf : (s.decodeReset).pktOvf = s.pktOvf := rfl
@[simp] theorem State.decodeReset_out : (s.decodeReset).out = s.out := rfl
@[simp] theorem State.decodeReset_events : (s.decodeReset).events = s.events := rfl
@[simp] theorem State.decodeReset_sched : (s.decodeReset).sched = s.sched := rfl
@[simp] theorem State.decodeReset_freeCount : (s.decodeReset).freeCount = s.freeCount := rfl
@[simp] theorem State.decodeReset_pNotes : (s.decodeReset).pNotes = s.pNotes := rfl
@[simp] theorem State.decodeReset_cNotes : (s.decodeReset).cNotes = s.cNotes := rfl

/-! `State.noteP` (R210). -/

@[simp] theorem State.noteP_cfg (a : Anomaly) : (s.noteP a).cfg = s.cfg := rfl
@[simp] theorem State.noteP_lastRise (a : Anomaly) : (s.noteP a).lastRise = s.lastRise := rfl
@[simp] theorem State.noteP_riseValid (a : Anomaly) : (s.noteP a).riseValid = s.riseValid := rfl
@[simp] theorem State.noteP_q (a : Anomaly) : (s.noteP a).q = s.q := rfl
@[simp] theorem State.noteP_qOvf (a : Anomaly) : (s.noteP a).qOvf = s.qOvf := rfl
@[simp] theorem State.noteP_phase (a : Anomaly) : (s.noteP a).phase = s.phase := rfl
@[simp] theorem State.noteP_oneCount (a : Anomaly) : (s.noteP a).oneCount = s.oneCount := rfl
@[simp] theorem State.noteP_bitCnt (a : Anomaly) : (s.noteP a).bitCnt = s.bitCnt := rfl
@[simp] theorem State.noteP_acc (a : Anomaly) : (s.noteP a).acc = s.acc := rfl
@[simp] theorem State.noteP_pkt (a : Anomaly) : (s.noteP a).pkt = s.pkt := rfl
@[simp] theorem State.noteP_xorAcc (a : Anomaly) : (s.noteP a).xorAcc = s.xorAcc := rfl
@[simp] theorem State.noteP_pktOvf (a : Anomaly) : (s.noteP a).pktOvf = s.pktOvf := rfl
@[simp] theorem State.noteP_out (a : Anomaly) : (s.noteP a).out = s.out := rfl
@[simp] theorem State.noteP_events (a : Anomaly) : (s.noteP a).events = s.events := rfl
@[simp] theorem State.noteP_sched (a : Anomaly) : (s.noteP a).sched = s.sched := rfl
@[simp] theorem State.noteP_freeCount (a : Anomaly) : (s.noteP a).freeCount = s.freeCount := rfl
@[simp] theorem State.noteP_pNotes (a : Anomaly) : (s.noteP a).pNotes = s.pNotes ++ [a] := rfl
@[simp] theorem State.noteP_cNotes (a : Anomaly) : (s.noteP a).cNotes = s.cNotes := rfl

/-! `State.noteC` (R210). -/

@[simp] theorem State.noteC_cfg (a : Anomaly) : (s.noteC a).cfg = s.cfg := rfl
@[simp] theorem State.noteC_lastRise (a : Anomaly) : (s.noteC a).lastRise = s.lastRise := rfl
@[simp] theorem State.noteC_riseValid (a : Anomaly) : (s.noteC a).riseValid = s.riseValid := rfl
@[simp] theorem State.noteC_q (a : Anomaly) : (s.noteC a).q = s.q := rfl
@[simp] theorem State.noteC_qOvf (a : Anomaly) : (s.noteC a).qOvf = s.qOvf := rfl
@[simp] theorem State.noteC_phase (a : Anomaly) : (s.noteC a).phase = s.phase := rfl
@[simp] theorem State.noteC_oneCount (a : Anomaly) : (s.noteC a).oneCount = s.oneCount := rfl
@[simp] theorem State.noteC_bitCnt (a : Anomaly) : (s.noteC a).bitCnt = s.bitCnt := rfl
@[simp] theorem State.noteC_acc (a : Anomaly) : (s.noteC a).acc = s.acc := rfl
@[simp] theorem State.noteC_pkt (a : Anomaly) : (s.noteC a).pkt = s.pkt := rfl
@[simp] theorem State.noteC_xorAcc (a : Anomaly) : (s.noteC a).xorAcc = s.xorAcc := rfl
@[simp] theorem State.noteC_pktOvf (a : Anomaly) : (s.noteC a).pktOvf = s.pktOvf := rfl
@[simp] theorem State.noteC_out (a : Anomaly) : (s.noteC a).out = s.out := rfl
@[simp] theorem State.noteC_events (a : Anomaly) : (s.noteC a).events = s.events := rfl
@[simp] theorem State.noteC_sched (a : Anomaly) : (s.noteC a).sched = s.sched := rfl
@[simp] theorem State.noteC_freeCount (a : Anomaly) : (s.noteC a).freeCount = s.freeCount := rfl
@[simp] theorem State.noteC_pNotes (a : Anomaly) : (s.noteC a).pNotes = s.pNotes := rfl
@[simp] theorem State.noteC_cNotes (a : Anomaly) : (s.noteC a).cNotes = s.cNotes ++ [a] := rfl

/-! `State.pktAppend` (R65). -/

@[simp] theorem State.pktAppend_cfg (v : Byte) : (s.pktAppend v).cfg = s.cfg := rfl
@[simp] theorem State.pktAppend_lastRise (v : Byte) : (s.pktAppend v).lastRise = s.lastRise := rfl
@[simp] theorem State.pktAppend_riseValid (v : Byte) : (s.pktAppend v).riseValid = s.riseValid := rfl
@[simp] theorem State.pktAppend_q (v : Byte) : (s.pktAppend v).q = s.q := rfl
@[simp] theorem State.pktAppend_qOvf (v : Byte) : (s.pktAppend v).qOvf = s.qOvf := rfl
@[simp] theorem State.pktAppend_phase (v : Byte) : (s.pktAppend v).phase = s.phase := rfl
@[simp] theorem State.pktAppend_oneCount (v : Byte) : (s.pktAppend v).oneCount = s.oneCount := rfl
@[simp] theorem State.pktAppend_bitCnt (v : Byte) : (s.pktAppend v).bitCnt = s.bitCnt := rfl
@[simp] theorem State.pktAppend_acc (v : Byte) : (s.pktAppend v).acc = s.acc := rfl
@[simp] theorem State.pktAppend_pkt (v : Byte) : (s.pktAppend v).pkt = s.pkt ++ [v] := rfl
@[simp] theorem State.pktAppend_xorAcc (v : Byte) : (s.pktAppend v).xorAcc = s.xorAcc := rfl
@[simp] theorem State.pktAppend_pktOvf (v : Byte) : (s.pktAppend v).pktOvf = s.pktOvf := rfl
@[simp] theorem State.pktAppend_out (v : Byte) : (s.pktAppend v).out = s.out := rfl
@[simp] theorem State.pktAppend_events (v : Byte) : (s.pktAppend v).events = s.events := rfl
@[simp] theorem State.pktAppend_sched (v : Byte) : (s.pktAppend v).sched = s.sched := rfl
@[simp] theorem State.pktAppend_freeCount (v : Byte) : (s.pktAppend v).freeCount = s.freeCount := rfl
@[simp] theorem State.pktAppend_pNotes (v : Byte) : (s.pktAppend v).pNotes = s.pNotes := rfl
@[simp] theorem State.pktAppend_cNotes (v : Byte) : (s.pktAppend v).cNotes = s.cNotes := rfl

/-! `State.emit` (R173). -/

@[simp] theorem State.emit_cfg (bytes : List Byte) (ok : Bool) : (s.emit bytes ok).cfg = s.cfg := rfl
@[simp] theorem State.emit_lastRise (bytes : List Byte) (ok : Bool) : (s.emit bytes ok).lastRise = s.lastRise := rfl
@[simp] theorem State.emit_riseValid (bytes : List Byte) (ok : Bool) : (s.emit bytes ok).riseValid = s.riseValid :=
  rfl
@[simp] theorem State.emit_q (bytes : List Byte) (ok : Bool) : (s.emit bytes ok).q = s.q := rfl
@[simp] theorem State.emit_qOvf (bytes : List Byte) (ok : Bool) : (s.emit bytes ok).qOvf = s.qOvf := rfl
@[simp] theorem State.emit_phase (bytes : List Byte) (ok : Bool) : (s.emit bytes ok).phase = s.phase := rfl
@[simp] theorem State.emit_oneCount (bytes : List Byte) (ok : Bool) : (s.emit bytes ok).oneCount = s.oneCount := rfl
@[simp] theorem State.emit_bitCnt (bytes : List Byte) (ok : Bool) : (s.emit bytes ok).bitCnt = s.bitCnt := rfl
@[simp] theorem State.emit_acc (bytes : List Byte) (ok : Bool) : (s.emit bytes ok).acc = s.acc := rfl
@[simp] theorem State.emit_pkt (bytes : List Byte) (ok : Bool) : (s.emit bytes ok).pkt = s.pkt := rfl
@[simp] theorem State.emit_xorAcc (bytes : List Byte) (ok : Bool) : (s.emit bytes ok).xorAcc = s.xorAcc := rfl
@[simp] theorem State.emit_pktOvf (bytes : List Byte) (ok : Bool) : (s.emit bytes ok).pktOvf = s.pktOvf := rfl
@[simp] theorem State.emit_out (bytes : List Byte) (ok : Bool) : (s.emit bytes ok).out = s.out ++ [{ bytes := bytes, xorOk := ok }] :=
  rfl
@[simp] theorem State.emit_events (bytes : List Byte) (ok : Bool) : (s.emit bytes ok).events = s.events := rfl
@[simp] theorem State.emit_sched (bytes : List Byte) (ok : Bool) : (s.emit bytes ok).sched = s.sched := rfl
@[simp] theorem State.emit_freeCount (bytes : List Byte) (ok : Bool) : (s.emit bytes ok).freeCount = s.freeCount :=
  rfl
@[simp] theorem State.emit_pNotes (bytes : List Byte) (ok : Bool) : (s.emit bytes ok).pNotes = s.pNotes := rfl
@[simp] theorem State.emit_cNotes (bytes : List Byte) (ok : Bool) : (s.emit bytes ok).cNotes = s.cNotes := rfl

/-! `State.rise` (R111). -/

@[simp] theorem State.rise_cfg (t : Nat) : (s.rise t).cfg = s.cfg := rfl
@[simp] theorem State.rise_lastRise (t : Nat) : (s.rise t).lastRise = tsOperand s.cfg t := rfl
@[simp] theorem State.rise_riseValid (t : Nat) : (s.rise t).riseValid = true := rfl
@[simp] theorem State.rise_q (t : Nat) : (s.rise t).q = s.q := rfl
@[simp] theorem State.rise_qOvf (t : Nat) : (s.rise t).qOvf = s.qOvf := rfl
@[simp] theorem State.rise_phase (t : Nat) : (s.rise t).phase = s.phase := rfl
@[simp] theorem State.rise_oneCount (t : Nat) : (s.rise t).oneCount = s.oneCount := rfl
@[simp] theorem State.rise_bitCnt (t : Nat) : (s.rise t).bitCnt = s.bitCnt := rfl
@[simp] theorem State.rise_acc (t : Nat) : (s.rise t).acc = s.acc := rfl
@[simp] theorem State.rise_pkt (t : Nat) : (s.rise t).pkt = s.pkt := rfl
@[simp] theorem State.rise_xorAcc (t : Nat) : (s.rise t).xorAcc = s.xorAcc := rfl
@[simp] theorem State.rise_pktOvf (t : Nat) : (s.rise t).pktOvf = s.pktOvf := rfl
@[simp] theorem State.rise_out (t : Nat) : (s.rise t).out = s.out := rfl
@[simp] theorem State.rise_events (t : Nat) : (s.rise t).events = s.events := rfl
@[simp] theorem State.rise_sched (t : Nat) : (s.rise t).sched = s.sched := rfl
@[simp] theorem State.rise_freeCount (t : Nat) : (s.rise t).freeCount = s.freeCount := rfl
@[simp] theorem State.rise_pNotes (t : Nat) : (s.rise t).pNotes = s.pNotes := rfl
@[simp] theorem State.rise_cNotes (t : Nat) : (s.rise t).cNotes = s.cNotes := rfl

/-! `State.countOne` (R131). -/

@[simp] theorem State.countOne_cfg : (s.countOne).cfg = s.cfg := rfl
@[simp] theorem State.countOne_lastRise : (s.countOne).lastRise = s.lastRise := rfl
@[simp] theorem State.countOne_riseValid : (s.countOne).riseValid = s.riseValid := rfl
@[simp] theorem State.countOne_q : (s.countOne).q = s.q := rfl
@[simp] theorem State.countOne_qOvf : (s.countOne).qOvf = s.qOvf := rfl
@[simp] theorem State.countOne_phase : (s.countOne).phase = s.phase := rfl
@[simp] theorem State.countOne_oneCount : (s.countOne).oneCount = satInc s.cfg.cntW s.oneCount := rfl
@[simp] theorem State.countOne_bitCnt : (s.countOne).bitCnt = s.bitCnt := rfl
@[simp] theorem State.countOne_acc : (s.countOne).acc = s.acc := rfl
@[simp] theorem State.countOne_pkt : (s.countOne).pkt = s.pkt := rfl
@[simp] theorem State.countOne_xorAcc : (s.countOne).xorAcc = s.xorAcc := rfl
@[simp] theorem State.countOne_pktOvf : (s.countOne).pktOvf = s.pktOvf := rfl
@[simp] theorem State.countOne_out : (s.countOne).out = s.out := rfl
@[simp] theorem State.countOne_events : (s.countOne).events = s.events := rfl
@[simp] theorem State.countOne_sched : (s.countOne).sched = s.sched := rfl
@[simp] theorem State.countOne_freeCount : (s.countOne).freeCount = s.freeCount := rfl
@[simp] theorem State.countOne_pNotes : (s.countOne).pNotes = s.pNotes := rfl
@[simp] theorem State.countOne_cNotes : (s.countOne).cNotes = s.cNotes := rfl

/-! `State.shiftBit` (R150). -/

@[simp] theorem State.shiftBit_cfg (b : Bool) : (s.shiftBit b).cfg = s.cfg := rfl
@[simp] theorem State.shiftBit_lastRise (b : Bool) : (s.shiftBit b).lastRise = s.lastRise := rfl
@[simp] theorem State.shiftBit_riseValid (b : Bool) : (s.shiftBit b).riseValid = s.riseValid := rfl
@[simp] theorem State.shiftBit_q (b : Bool) : (s.shiftBit b).q = s.q := rfl
@[simp] theorem State.shiftBit_qOvf (b : Bool) : (s.shiftBit b).qOvf = s.qOvf := rfl
@[simp] theorem State.shiftBit_phase (b : Bool) : (s.shiftBit b).phase = s.phase := rfl
@[simp] theorem State.shiftBit_oneCount (b : Bool) : (s.shiftBit b).oneCount = s.oneCount := rfl
@[simp] theorem State.shiftBit_bitCnt (b : Bool) : (s.shiftBit b).bitCnt = nextBitCnt s.bitCnt := rfl
@[simp] theorem State.shiftBit_acc (b : Bool) : (s.shiftBit b).acc = shiftIn s.acc b := rfl
@[simp] theorem State.shiftBit_pkt (b : Bool) : (s.shiftBit b).pkt = s.pkt := rfl
@[simp] theorem State.shiftBit_xorAcc (b : Bool) : (s.shiftBit b).xorAcc = s.xorAcc := rfl
@[simp] theorem State.shiftBit_pktOvf (b : Bool) : (s.shiftBit b).pktOvf = s.pktOvf := rfl
@[simp] theorem State.shiftBit_out (b : Bool) : (s.shiftBit b).out = s.out := rfl
@[simp] theorem State.shiftBit_events (b : Bool) : (s.shiftBit b).events = s.events := rfl
@[simp] theorem State.shiftBit_sched (b : Bool) : (s.shiftBit b).sched = s.sched := rfl
@[simp] theorem State.shiftBit_freeCount (b : Bool) : (s.shiftBit b).freeCount = s.freeCount := rfl
@[simp] theorem State.shiftBit_pNotes (b : Bool) : (s.shiftBit b).pNotes = s.pNotes := rfl
@[simp] theorem State.shiftBit_cNotes (b : Bool) : (s.shiftBit b).cNotes = s.cNotes := rfl

/-! `State.appendByte` (R151). -/

@[simp] theorem State.appendByte_cfg : (s.appendByte).cfg = s.cfg := rfl
@[simp] theorem State.appendByte_lastRise : (s.appendByte).lastRise = s.lastRise := rfl
@[simp] theorem State.appendByte_riseValid : (s.appendByte).riseValid = s.riseValid := rfl
@[simp] theorem State.appendByte_q : (s.appendByte).q = s.q := rfl
@[simp] theorem State.appendByte_qOvf : (s.appendByte).qOvf = s.qOvf := rfl
@[simp] theorem State.appendByte_phase : (s.appendByte).phase = s.phase := rfl
@[simp] theorem State.appendByte_oneCount : (s.appendByte).oneCount = s.oneCount := rfl
@[simp] theorem State.appendByte_bitCnt : (s.appendByte).bitCnt = 0 := rfl
@[simp] theorem State.appendByte_acc : (s.appendByte).acc = 0x00#8 := rfl
@[simp] theorem State.appendByte_pkt : (s.appendByte).pkt = s.pkt ++ [s.acc] := rfl
@[simp] theorem State.appendByte_xorAcc : (s.appendByte).xorAcc = s.xorAcc ^^^ s.acc := rfl
@[simp] theorem State.appendByte_pktOvf : (s.appendByte).pktOvf = s.pktOvf := rfl
@[simp] theorem State.appendByte_out : (s.appendByte).out = s.out := rfl
@[simp] theorem State.appendByte_events : (s.appendByte).events = s.events := rfl
@[simp] theorem State.appendByte_sched : (s.appendByte).sched = s.sched := rfl
@[simp] theorem State.appendByte_freeCount : (s.appendByte).freeCount = s.freeCount := rfl
@[simp] theorem State.appendByte_pNotes : (s.appendByte).pNotes = s.pNotes := rfl
@[simp] theorem State.appendByte_cNotes : (s.appendByte).cNotes = s.cNotes := rfl

/-! `State.toReset` (R240). -/

@[simp] theorem State.toReset_cfg : (s.toReset).cfg = s.cfg := rfl
@[simp] theorem State.toReset_lastRise : (s.toReset).lastRise = Config.freeTimestamp s.freeCount % 2 ^ s.cfg.tsW :=
  rfl
@[simp] theorem State.toReset_riseValid : (s.toReset).riseValid = false := rfl
@[simp] theorem State.toReset_q : (s.toReset).q = [] := rfl
@[simp] theorem State.toReset_qOvf : (s.toReset).qOvf = false := rfl
@[simp] theorem State.toReset_phase : (s.toReset).phase = .seek := rfl
@[simp] theorem State.toReset_oneCount : (s.toReset).oneCount = 0 := rfl
@[simp] theorem State.toReset_bitCnt : (s.toReset).bitCnt = 0 := rfl
@[simp] theorem State.toReset_acc : (s.toReset).acc = 0x00#8 := rfl
@[simp] theorem State.toReset_pkt : (s.toReset).pkt = [] := rfl
@[simp] theorem State.toReset_xorAcc : (s.toReset).xorAcc = 0x00#8 := rfl
@[simp] theorem State.toReset_pktOvf : (s.toReset).pktOvf = false := rfl
@[simp] theorem State.toReset_out : (s.toReset).out = [] := rfl
@[simp] theorem State.toReset_events : (s.toReset).events = s.events := rfl
@[simp] theorem State.toReset_sched : (s.toReset).sched = s.sched := rfl
@[simp] theorem State.toReset_freeCount : (s.toReset).freeCount = s.freeCount := rfl
@[simp] theorem State.toReset_pNotes : (s.toReset).pNotes = [] := rfl
@[simp] theorem State.toReset_cNotes : (s.toReset).cNotes = [] := rfl

/-! `State.afterFetch` (R191). -/

@[simp] theorem State.afterFetch_cfg : (s.afterFetch).cfg = s.cfg := rfl
@[simp] theorem State.afterFetch_lastRise : (s.afterFetch).lastRise = s.lastRise := rfl
@[simp] theorem State.afterFetch_riseValid : (s.afterFetch).riseValid = s.riseValid := rfl
@[simp] theorem State.afterFetch_q : (s.afterFetch).q = s.q := rfl
@[simp] theorem State.afterFetch_qOvf : (s.afterFetch).qOvf = s.qOvf := rfl
@[simp] theorem State.afterFetch_phase : (s.afterFetch).phase = s.phase := rfl
@[simp] theorem State.afterFetch_oneCount : (s.afterFetch).oneCount = s.oneCount := rfl
@[simp] theorem State.afterFetch_bitCnt : (s.afterFetch).bitCnt = s.bitCnt := rfl
@[simp] theorem State.afterFetch_acc : (s.afterFetch).acc = s.acc := rfl
@[simp] theorem State.afterFetch_pkt : (s.afterFetch).pkt = s.pkt := rfl
@[simp] theorem State.afterFetch_xorAcc : (s.afterFetch).xorAcc = s.xorAcc := rfl
@[simp] theorem State.afterFetch_pktOvf : (s.afterFetch).pktOvf = s.pktOvf := rfl
@[simp] theorem State.afterFetch_out : (s.afterFetch).out = s.out := rfl
@[simp] theorem State.afterFetch_events : (s.afterFetch).events = if s.turn = .producer then s.events.tail else s.events :=
  rfl
@[simp] theorem State.afterFetch_sched : (s.afterFetch).sched = s.sched.tail := rfl
@[simp] theorem State.afterFetch_freeCount : (s.afterFetch).freeCount = s.freeCount + 1 := rfl
@[simp] theorem State.afterFetch_pNotes : (s.afterFetch).pNotes = s.pNotes := rfl
@[simp] theorem State.afterFetch_cNotes : (s.afterFetch).cNotes = s.cNotes := rfl

/-! `State.cycleStart` (R63). -/

@[simp] theorem State.cycleStart_cfg : (s.cycleStart).cfg = s.cfg := rfl
@[simp] theorem State.cycleStart_lastRise : (s.cycleStart).lastRise = s.lastRise := rfl
@[simp] theorem State.cycleStart_riseValid : (s.cycleStart).riseValid = s.riseValid := rfl
@[simp] theorem State.cycleStart_q : (s.cycleStart).q = s.q := rfl
@[simp] theorem State.cycleStart_qOvf : (s.cycleStart).qOvf = s.qOvf := rfl
@[simp] theorem State.cycleStart_phase : (s.cycleStart).phase = s.phase := rfl
@[simp] theorem State.cycleStart_oneCount : (s.cycleStart).oneCount = s.oneCount := rfl
@[simp] theorem State.cycleStart_bitCnt : (s.cycleStart).bitCnt = s.bitCnt := rfl
@[simp] theorem State.cycleStart_acc : (s.cycleStart).acc = s.acc := rfl
@[simp] theorem State.cycleStart_pkt : (s.cycleStart).pkt = s.pkt := rfl
@[simp] theorem State.cycleStart_xorAcc : (s.cycleStart).xorAcc = s.xorAcc := rfl
@[simp] theorem State.cycleStart_pktOvf : (s.cycleStart).pktOvf = s.pktOvf := rfl
@[simp] theorem State.cycleStart_out : (s.cycleStart).out = s.out := rfl
@[simp] theorem State.cycleStart_events : (s.cycleStart).events = s.events.tail := rfl
@[simp] theorem State.cycleStart_sched : (s.cycleStart).sched = s.sched := rfl
@[simp] theorem State.cycleStart_freeCount : (s.cycleStart).freeCount = s.freeCount + 1 := rfl
@[simp] theorem State.cycleStart_pNotes : (s.cycleStart).pNotes = s.pNotes := rfl
@[simp] theorem State.cycleStart_cNotes : (s.cycleStart).cNotes = s.cNotes := rfl

/-! `State.commit` (R63). -/

@[simp] theorem State.commit_cfg (p c : State) : (s.commit p c).cfg = c.cfg := rfl
@[simp] theorem State.commit_lastRise (p c : State) : (s.commit p c).lastRise = p.lastRise := rfl
@[simp] theorem State.commit_riseValid (p c : State) : (s.commit p c).riseValid = p.riseValid := rfl
@[simp] theorem State.commit_q (p c : State) : (s.commit p c).q = c.q ++ p.q.drop s.q.length := rfl
@[simp] theorem State.commit_qOvf (p c : State) : (s.commit p c).qOvf = p.qOvf := rfl
@[simp] theorem State.commit_phase (p c : State) : (s.commit p c).phase = c.phase := rfl
@[simp] theorem State.commit_oneCount (p c : State) : (s.commit p c).oneCount = c.oneCount := rfl
@[simp] theorem State.commit_bitCnt (p c : State) : (s.commit p c).bitCnt = c.bitCnt := rfl
@[simp] theorem State.commit_acc (p c : State) : (s.commit p c).acc = c.acc := rfl
@[simp] theorem State.commit_pkt (p c : State) : (s.commit p c).pkt = c.pkt := rfl
@[simp] theorem State.commit_xorAcc (p c : State) : (s.commit p c).xorAcc = c.xorAcc := rfl
@[simp] theorem State.commit_pktOvf (p c : State) : (s.commit p c).pktOvf = c.pktOvf := rfl
@[simp] theorem State.commit_out (p c : State) : (s.commit p c).out = c.out := rfl
@[simp] theorem State.commit_events (p c : State) : (s.commit p c).events = c.events := rfl
@[simp] theorem State.commit_sched (p c : State) : (s.commit p c).sched = c.sched := rfl
@[simp] theorem State.commit_freeCount (p c : State) : (s.commit p c).freeCount = c.freeCount := rfl
@[simp] theorem State.commit_pNotes (p c : State) : (s.commit p c).pNotes = p.pNotes := rfl
@[simp] theorem State.commit_cNotes (p c : State) : (s.commit p c).cNotes = c.cNotes := rfl

end Sys2Proof.Machine
end

