-- ==== Sys2Proof/Laws/Ops.lean ====
section
/-! SUPPORT. What each shared operation can do, said once: the guards, the queue, taking an anomaly, the
selector, and the inversion of `exec` per operation.
-/

namespace Sys2Proof.Machine

/-! The configuration (R6) and the guards. -/

/-- R6, its conditions as a conjunction. -/
theorem wellFormed_iff {c : Config} :
    c.WellFormed ↔
      (c.ticksMinOne ≤ c.ticksMaxOne ∧ c.ticksMinZero ≤ c.ticksMaxZero) ∧
      c.ticksMaxOne < c.ticksMinZero ∧ c.ticksMaxZero < 2 ^ c.tsW ∧
      (1 ≤ c.preambleMin ∧ c.preambleMin ≤ 2 ^ c.cntW - 1) ∧
      (c.minPacketLen ≤ c.pktMaxBytes ∧ 1 ≤ c.qDepth ∧ 1 ≤ c.pktMaxBytes) := by
  simp only [Config.WellFormed, Config.wellFormed, Bool.and_eq_true, decide_eq_true_eq, and_assoc]

theorem State.configured_next {s t : State} {k : State → State} :
    s.configured k = .next t ↔ s.cfg.WellFormed ∧ t = k s := by
  by_cases h : s.cfg.WellFormed
  · rw [State.configured, if_pos h]
    exact ⟨fun e => ⟨h, by injection e with e; exact e.symm⟩, fun e => e.2 ▸ rfl⟩
  · rw [State.configured, if_neg h]
    exact ⟨nofun, fun e => absurd e.1 h⟩

theorem State.configured_refused {s : State} {k : State → State} (h : ¬ s.cfg.WellFormed) :
    s.configured k = .refused .illFormedConfig := if_neg h

theorem State.selected_next {s t : State} {i : Instr} {k : State → State} :
    s.selected i k = .next t ↔ s.cfg.WellFormed ∧ decodeSel s.sel = i ∧ t = k s := by
  by_cases h : s.cfg.WellFormed
  · by_cases hi : decodeSel s.sel = i
    · rw [State.selected, if_pos h, if_pos hi]
      exact ⟨fun e => ⟨h, hi, by injection e with e; exact e.symm⟩, fun e => e.2.2 ▸ rfl⟩
    · rw [State.selected, if_pos h, if_neg hi]
      exact ⟨nofun, fun e => absurd e.2.1 hi⟩
  · rw [State.selected, if_neg h]
    exact ⟨nofun, fun e => absurd e.1 h⟩

theorem State.selected_refused {s : State} {i : Instr} {k : State → State} (h : ¬ s.cfg.WellFormed) :
    s.selected i k = .refused .illFormedConfig := if_neg h

theorem State.selected_notSelected {s : State} {i : Instr} {k : State → State}
    (h : s.cfg.WellFormed) (hi : decodeSel s.sel ≠ i) : s.selected i k = .refused .notSelected := by
  rw [State.selected, if_pos h, if_neg hi]

/-! The queue. -/

theorem State.qFull_eq_true {s : State} : s.qFull = true ↔ s.cfg.qDepth ≤ s.q.length := by
  simp [State.qFull]

theorem State.qFull_eq_false {s : State} : s.qFull = false ↔ s.q.length < s.cfg.qDepth := by
  simp [State.qFull]

/-- `QPush` appends the bit, or drops it and records A5 (R51). -/
theorem State.qPush_cases (b : Bool) (s : State) :
    (s.q.length < s.cfg.qDepth ∧ s.qPush b = { s with q := s.q ++ [b] }) ∨
    (s.cfg.qDepth ≤ s.q.length ∧
      s.qPush b = { s with qOvf := true, pNotes := s.pNotes ++ [.queueOverflow] }) := by
  by_cases h : s.cfg.qDepth ≤ s.q.length
  · right
    rw [State.qPush, if_pos (State.qFull_eq_true.2 h)]
    exact ⟨h, rfl⟩
  · left
    rw [State.qPush, if_neg (by simpa [State.qFull_eq_true] using h)]
    exact ⟨by omega, rfl⟩

theorem State.qPop_eq_none {s : State} : s.qPop = none ↔ s.q = [] := by
  unfold State.qPop
  split <;> simp_all

theorem State.qPop_eq_some {s t : State} {b : Bool} :
    s.qPop = some (b, t) ↔ ∃ rest, s.q = b :: rest ∧ t = { s with q := rest } := by
  unfold State.qPop
  split <;> simp_all [eq_comm]

theorem State.popThen_cons {s : State} {k : State → State} {b : Bool} {rest : List Bool}
    (h : s.q = b :: rest) : s.popThen k = k { s with q := rest } := by
  rw [State.popThen, State.qPop_eq_some.2 ⟨rest, h, rfl⟩]

/-! Taking an anomaly (R210): one equation per row of the table. -/

theorem State.takeAnomaly_timingNoise (s : State) :
    s.takeAnomaly .timingNoise = { s with pNotes := s.pNotes ++ [.timingNoise] } := rfl

theorem State.takeAnomaly_incompletePreamble (s : State) :
    s.takeAnomaly .incompletePreamble =
      { s with oneCount := 0, cNotes := s.cNotes ++ [.incompletePreamble] } := rfl

theorem State.takeAnomaly_queueUnderrun (s : State) :
    s.takeAnomaly .queueUnderrun = { s with cNotes := s.cNotes ++ [.queueUnderrun] } := rfl

theorem State.takeAnomaly_shortPacket (s : State) :
    s.takeAnomaly .shortPacket = { s.decodeReset with cNotes := s.cNotes ++ [.shortPacket] } := rfl

theorem State.takeAnomaly_queueOverflow (s : State) :
    s.takeAnomaly .queueOverflow = { s with qOvf := true, pNotes := s.pNotes ++ [.queueOverflow] } := rfl

theorem State.takeAnomaly_packetOverflow (s : State) :
    s.takeAnomaly .packetOverflow =
      { s.decodeReset with pktOvf := true, cNotes := s.cNotes ++ [.packetOverflow] } := rfl

/-! The selector (R84, R89): in which states each consumer operation is selected. -/

/-- Where the queue is empty the selector's fields but `n` do not matter (R84, R90). -/
theorem State.decodeSel_nil {s : State} (h : s.q = []) : decodeSel s.sel = .cWait := by
  simp [decodeSel, State.sel, State.qEmpty, h]

theorem State.decodeSel_cons {s : State} {b : Bool} {rest : List Bool} (h : s.q = b :: rest) :
    decodeSel s.sel =
      if s.phase = .seek then (if b then .cSeek1 else .cSeek0)
      else if s.bitCnt.val = 8 then (if b then .cFlag1 else .cFlag0) else .cShift b := by
  cases hp : s.phase <;> by_cases hl : s.bitCnt.val = 8 <;>
    simp [decodeSel, State.sel, State.qEmpty, State.last, h, hp, hl, Phase.toBit]

theorem State.selects_cWait {s : State} : decodeSel s.sel = .cWait ↔ s.q = [] := by
  cases h : s.q with
  | nil => simp [State.decodeSel_nil h]
  | cons b r => rw [State.decodeSel_cons h]; cases b <;> split_ifs <;> simp

theorem State.selects_cSeek1 {s : State} :
    decodeSel s.sel = .cSeek1 ↔ s.phase = .seek ∧ ∃ r, s.q = true :: r := by
  cases h : s.q with
  | nil => simp [State.decodeSel_nil h]
  | cons b r => rw [State.decodeSel_cons h]; cases b <;> split_ifs <;> simp_all

theorem State.selects_cSeek0 {s : State} :
    decodeSel s.sel = .cSeek0 ↔ s.phase = .seek ∧ ∃ r, s.q = false :: r := by
  cases h : s.q with
  | nil => simp [State.decodeSel_nil h]
  | cons b r => rw [State.decodeSel_cons h]; cases b <;> split_ifs <;> simp_all

theorem State.phase_ne_seek {s : State} : ¬ s.phase = .seek ↔ s.phase = .frame := by
  cases s.phase <;> simp

theorem State.selects_cShift {s : State} {b : Bool} :
    decodeSel s.sel = .cShift b ↔ s.phase = .frame ∧ s.bitCnt.val ≠ 8 ∧ ∃ r, s.q = b :: r := by
  cases h : s.q with
  | nil => simp [State.decodeSel_nil h]
  | cons b' r => rw [State.decodeSel_cons h]; cases b' <;> split_ifs <;> simp_all [State.phase_ne_seek]

theorem State.selects_cFlag0 {s : State} :
    decodeSel s.sel = .cFlag0 ↔ s.phase = .frame ∧ s.bitCnt.val = 8 ∧ ∃ r, s.q = false :: r := by
  cases h : s.q with
  | nil => simp [State.decodeSel_nil h]
  | cons b r => rw [State.decodeSel_cons h]; cases b <;> split_ifs <;> simp_all [State.phase_ne_seek]

theorem State.selects_cFlag1 {s : State} :
    decodeSel s.sel = .cFlag1 ↔ s.phase = .frame ∧ s.bitCnt.val = 8 ∧ ∃ r, s.q = true :: r := by
  cases h : s.q with
  | nil => simp [State.decodeSel_nil h]
  | cons b r => rw [State.decodeSel_cons h]; cases b <;> split_ifs <;> simp_all [State.phase_ne_seek]

/-! The inversion of `exec`: under which condition each operation answers a next state, and which. -/

theorem exec_rst_next {s t : State} : exec .rst s = .next t ↔ s.cfg.WellFormed ∧ t = s.toReset :=
  State.configured_next

theorem exec_pIdle_next {s t : State} : exec .pIdle s = .next t ↔ s.cfg.WellFormed ∧ t = s :=
  State.configured_next (k := fun s => s)

theorem exec_pRise_next {u : Nat} {s t : State} :
    exec (.pRise u) s = .next t ↔ s.cfg.WellFormed ∧ t = s.rise u := State.configured_next

theorem exec_pFall_next {u : Nat} {s t : State} :
    exec (.pFall u) s = .next t ↔ s.cfg.WellFormed ∧ t = s.fall u := State.configured_next

theorem exec_cWait_next {s t : State} :
    exec .cWait s = .next t ↔ s.cfg.WellFormed ∧ s.q = [] ∧ t = s.takeAnomaly .queueUnderrun :=
  State.selected_next.trans (by rw [State.selects_cWait])

theorem exec_cSeek1_next {s t : State} :
    exec .cSeek1 s = .next t ↔ s.cfg.WellFormed ∧ s.phase = .seek ∧
      ∃ r, s.q = true :: r ∧ t = { s with q := r }.countOne := by
  refine State.selected_next.trans ?_
  rw [State.selects_cSeek1]
  constructor
  · rintro ⟨h, ⟨hp, r, hq⟩, rfl⟩
    exact ⟨h, hp, r, hq, State.popThen_cons hq⟩
  · rintro ⟨h, hp, r, hq, rfl⟩
    exact ⟨h, ⟨hp, r, hq⟩, (State.popThen_cons hq).symm⟩

theorem exec_cSeek0_next {s t : State} :
    exec .cSeek0 s = .next t ↔ s.cfg.WellFormed ∧ s.phase = .seek ∧
      ∃ r, s.q = false :: r ∧ t = { s with q := r }.endRun := by
  refine State.selected_next.trans ?_
  rw [State.selects_cSeek0]
  constructor
  · rintro ⟨h, ⟨hp, r, hq⟩, rfl⟩
    exact ⟨h, hp, r, hq, State.popThen_cons hq⟩
  · rintro ⟨h, hp, r, hq, rfl⟩
    exact ⟨h, ⟨hp, r, hq⟩, (State.popThen_cons hq).symm⟩

theorem exec_cShift_next {b : Bool} {s t : State} :
    exec (.cShift b) s = .next t ↔ s.cfg.WellFormed ∧ s.phase = .frame ∧ s.bitCnt.val ≠ 8 ∧
      ∃ r, s.q = b :: r ∧ t = { s with q := r }.shiftBit b := by
  refine State.selected_next.trans ?_
  rw [State.selects_cShift]
  constructor
  · rintro ⟨h, ⟨hp, hl, r, hq⟩, rfl⟩
    exact ⟨h, hp, hl, r, hq, State.popThen_cons hq⟩
  · rintro ⟨h, hp, hl, r, hq, rfl⟩
    exact ⟨h, ⟨hp, hl, r, hq⟩, (State.popThen_cons hq).symm⟩

theorem exec_cFlag0_next {s t : State} :
    exec .cFlag0 s = .next t ↔ s.cfg.WellFormed ∧ s.phase = .frame ∧ s.bitCnt.val = 8 ∧
      ∃ r, s.q = false :: r ∧ t = { s with q := r }.flagZero := by
  refine State.selected_next.trans ?_
  rw [State.selects_cFlag0]
  constructor
  · rintro ⟨h, ⟨hp, hl, r, hq⟩, rfl⟩
    exact ⟨h, hp, hl, r, hq, State.popThen_cons hq⟩
  · rintro ⟨h, hp, hl, r, hq, rfl⟩
    exact ⟨h, ⟨hp, hl, r, hq⟩, (State.popThen_cons hq).symm⟩

theorem exec_cFlag1_next {s t : State} :
    exec .cFlag1 s = .next t ↔ s.cfg.WellFormed ∧ s.phase = .frame ∧ s.bitCnt.val = 8 ∧
      ∃ r, s.q = true :: r ∧ t = { s with q := r }.flagOne := by
  refine State.selected_next.trans ?_
  rw [State.selects_cFlag1]
  constructor
  · rintro ⟨h, ⟨hp, hl, r, hq⟩, rfl⟩
    exact ⟨h, hp, hl, r, hq, State.popThen_cons hq⟩
  · rintro ⟨h, hp, hl, r, hq, rfl⟩
    exact ⟨h, ⟨hp, hl, r, hq⟩, (State.popThen_cons hq).symm⟩

/-- What P.FALL classifies depends on the four window parameters, `TS_W`, the event and `last_rise` alone
(R110, R114, R116). -/
theorem classify_delta_congr {c c' : Config} (u r : Nat) (h₁ : c.ticksMinOne = c'.ticksMinOne)
    (h₂ : c.ticksMaxOne = c'.ticksMaxOne) (h₃ : c.ticksMinZero = c'.ticksMinZero)
    (h₄ : c.ticksMaxZero = c'.ticksMaxZero) (h₅ : c.tsW = c'.tsW) :
    classify c (delta c (tsOperand c u) r) = classify c' (delta c' (tsOperand c' u) r) := by
  cases c
  cases c'
  subst h₁ h₂ h₃ h₄ h₅
  rfl

/-! The branching effects, one inversion each. -/

/-- What P.FALL can do (R112): orphan, pushed, dropped or Invalid. -/
theorem State.fall_cases (u : Nat) (s : State) :
    (s.riseValid = false ∧ s.fall u = s) ∨
    (s.riseValid = true ∧ ∃ b, classBit (classify s.cfg (delta s.cfg (tsOperand s.cfg u) s.lastRise)) = some b ∧
      ((s.q.length < s.cfg.qDepth ∧ s.fall u = { s with riseValid := false, q := s.q ++ [b] }) ∨
       (s.cfg.qDepth ≤ s.q.length ∧ s.fall u =
          { s with riseValid := false, qOvf := true, pNotes := s.pNotes ++ [.queueOverflow] }))) ∨
    (s.riseValid = true ∧ classify s.cfg (delta s.cfg (tsOperand s.cfg u) s.lastRise) = .invalid ∧
      s.fall u = { s with riseValid := false, pNotes := s.pNotes ++ [.timingNoise] }) := by
  cases hv : s.riseValid with
  | false => left; simp [State.fall, hv]
  | true =>
    right
    cases hc : classify s.cfg (delta s.cfg (tsOperand s.cfg u) s.lastRise) with
    | one =>
      left
      refine ⟨rfl, true, rfl, ?_⟩
      simpa [State.fall, hv, State.takeClass, hc] using State.qPush_cases true { s with riseValid := false }
    | zero =>
      left
      refine ⟨rfl, false, rfl, ?_⟩
      simpa [State.fall, hv, State.takeClass, hc] using State.qPush_cases false { s with riseValid := false }
    | invalid =>
      right
      refine ⟨rfl, rfl, ?_⟩
      simp [State.fall, hv, State.takeClass, hc, State.takeAnomaly_timingNoise]

/-- What C.SEEK0 does after the pop (R132): hit or miss. -/
theorem State.endRun_cases (s : State) :
    (s.cfg.preambleMin ≤ s.oneCount ∧ s.endRun = { s with phase := .frame, oneCount := 0 }) ∨
    (s.oneCount < s.cfg.preambleMin ∧
      s.endRun = { s with oneCount := 0, cNotes := s.cNotes ++ [.incompletePreamble] }) := by
  by_cases h : s.cfg.preambleMin ≤ s.oneCount
  · left; simp [State.endRun, State.preambleMet, h]
  · right; exact ⟨by omega, by simp [State.endRun, State.preambleMet, h, State.takeAnomaly_incompletePreamble]⟩

/-- What C.FLAG0 does after the pop (R151): append or overflow. -/
theorem State.flagZero_cases (s : State) :
    (s.pkt.length < s.cfg.pktMaxBytes ∧ s.flagZero = s.appendByte) ∨
    (s.cfg.pktMaxBytes ≤ s.pkt.length ∧ s.flagZero = s.takeAnomaly .packetOverflow) := by
  by_cases h : s.pkt.length < s.cfg.pktMaxBytes
  · left; simp [State.flagZero, State.pktRoom, h]
  · right; exact ⟨by omega, by simp [State.flagZero, State.pktRoom, h]⟩

/-- What C.FLAG1 does after the pop (R152): emit, short or overflow. -/
theorem State.flagOne_cases (s : State) :
    (s.pkt.length < s.cfg.pktMaxBytes ∧ s.cfg.minPacketLen ≤ s.pkt.length + 1 ∧
      s.flagOne = (s.emit (s.pkt ++ [s.acc]) (decide (s.xorAcc ^^^ s.acc = 0x00#8))).decodeReset) ∨
    (s.pkt.length < s.cfg.pktMaxBytes ∧ s.pkt.length + 1 < s.cfg.minPacketLen ∧
      s.flagOne = s.takeAnomaly .shortPacket) ∨
    (s.cfg.pktMaxBytes ≤ s.pkt.length ∧ s.flagOne = s.takeAnomaly .packetOverflow) := by
  by_cases h : s.pkt.length < s.cfg.pktMaxBytes
  · by_cases h2 : s.cfg.minPacketLen ≤ s.pkt.length + 1
    · left; simp [State.flagOne, State.pktRoom, State.validate, lengthOk, h, h2]
    · right; left
      exact ⟨h, by omega, by simp [State.flagOne, State.pktRoom, State.validate, lengthOk, h, h2]⟩
  · right; right; exact ⟨by omega, by simp [State.flagOne, State.pktRoom, h]⟩

end Sys2Proof.Machine
end

