-- ==== Sys2Proof/Laws/PerInstr.lean ====
section
/-! SUPPORT. The statements made per instruction, about the instruction as syntax. -/

namespace Sys2Proof.Laws.EncodeFits

/-- The word of a well-formed operation fits its port (R80, R84). -/
def Statement (i : Instr) : Prop :=
  ∀ tsW, i.wellFormed tsW = true → (encode tsW i).wellFormed tsW = true

/-- An EV word of a timestamp of `TS_W` bits has `TS_W + 2` bits. -/
theorem evWord_fits (tsW t : Nat) (k : EdgeKind) (h : t < 2 ^ tsW) : evWord tsW k t < 2 ^ (tsW + 2) := by
  have e : 2 ^ (tsW + 2) = 4 * 2 ^ tsW := by rw [pow_add]; ring
  cases k <;> simp only [evWord, EdgeKind.toBit, Bool.toNat_true, Bool.toNat_false] <;> omega

theorem rst : Statement .rst := fun _ _ => rfl

theorem pIdle : Statement .pIdle := fun _ _ => by simp [encode, InWord.wellFormed]

theorem pRise (t : Nat) : Statement (.pRise t) := fun tsW h => by
  simpa [encode, InWord.wellFormed] using evWord_fits tsW t .rising (by simpa [Instr.wellFormed] using h)

theorem pFall (t : Nat) : Statement (.pFall t) := fun tsW h => by
  simpa [encode, InWord.wellFormed] using evWord_fits tsW t .falling (by simpa [Instr.wellFormed] using h)

theorem cWait : Statement .cWait := fun _ _ => rfl

theorem cSeek1 : Statement .cSeek1 := fun _ _ => rfl

theorem cSeek0 : Statement .cSeek0 := fun _ _ => rfl

theorem cShift (b : Bool) : Statement (.cShift b) := fun _ _ => rfl

theorem cFlag0 : Statement .cFlag0 := fun _ _ => rfl

theorem cFlag1 : Statement .cFlag1 := fun _ _ => rfl

end Sys2Proof.Laws.EncodeFits
end

