-- ==== Sys2Proof/Laws/Step.lean ====
section
/-! SUPPORT. What a step can do, said once: it performs the operation of the turn. -/

namespace Sys2Proof.Machine

/-- A step that answers a next state performed the fetched operation (R191). -/
theorem step_next {s t : State} :
    step s = .next t ↔ ∃ i, s.fetch = .ok i ∧ exec i s.afterFetch = .next t := by
  unfold step
  split <;> simp_all

/-- The fetched operation by whose turn it is (R89, R190, R191). -/
theorem State.fetch_cases (s : State) :
    (s.turn = .reset ∧ s.fetch = .ok .rst) ∨
    (s.turn = .producer ∧ s.fetch = decodeEv s.cfg.tsW s.evPort) ∨
    (s.turn = .consumer ∧ s.fetch = .ok (decodeSel s.sel)) := by
  unfold State.fetch
  cases h : s.turn with
  | reset => exact .inl ⟨rfl, rfl⟩
  | producer => exact .inr (.inl ⟨rfl, rfl⟩)
  | consumer => exact .inr (.inr ⟨rfl, rfl⟩)

/-- Taking the turn leaves the selection of agent C as it was. -/
theorem State.decodeSel_afterFetch (s : State) : decodeSel s.afterFetch.sel = decodeSel s.sel := by
  cases h : s.q with
  | nil => rw [State.decodeSel_nil h, State.decodeSel_nil (s := s.afterFetch) (by simpa using h)]
  | cons b r =>
    rw [State.decodeSel_cons h, State.decodeSel_cons (s := s.afterFetch) (b := b) (rest := r) (by simpa using h)]
    rfl

end Sys2Proof.Machine
end

