-- ==== Sys2Proof/Laws/Runs.lean ====
section
/-! SUPPORT. Runs under a schedule: what one step of a run is, by whose turn it is. -/

namespace Sys2Proof.Machine

@[simp] theorem State.runUnder_zero (σ : Schedule) (s : State) : s.runUnder σ 0 = s := rfl

/-- A step of a run that answers a next state is the next state of the run. -/
theorem State.runUnder_succ {σ : Schedule} {s t : State} {k : Nat}
    (h : step ((s.runUnder σ k).inTurn (σ k)) = .next t) : s.runUnder σ (k + 1) = t := by
  rw [State.runUnder, h]

@[simp] theorem State.inTurn_turn (x : Turn) (s : State) : (s.inTurn x).turn = x := rfl

@[simp] theorem State.inTurn_cfg (x : Turn) (s : State) : (s.inTurn x).cfg = s.cfg := rfl

@[simp] theorem State.inTurn_q (x : Turn) (s : State) : (s.inTurn x).q = s.q := rfl

@[simp] theorem State.inTurn_events (x : Turn) (s : State) : (s.inTurn x).events = s.events := rfl

/-- Giving the turn keeps the invariants: they do not speak of turns. -/
theorem State.Inv.inTurn {s : State} (h : s.Inv) (x : Turn) : (s.inTurn x).Inv := { h with }

/-- Taking a given turn uses up that turn, the presented word on agent P's turn, and one number of the free
values. -/
theorem State.inTurn_afterFetch (x : Turn) (s : State) :
    (s.inTurn x).afterFetch =
      { s with
        events := if x = .producer then s.events.tail else s.events
        freeCount := s.freeCount + 1 } := rfl

/-- A step in agent C's turn performs the selected operation (R190). -/
theorem State.step_consumer (s : State) :
    step (s.inTurn .consumer) = exec (decodeSel s.sel) { s with freeCount := s.freeCount + 1 } := rfl

/-- A step in agent P's turn performs the decoded operation (R94, R191). -/
theorem State.step_producer {s : State} {i : Instr} (h : decode s.cfg.tsW (.ev s.evPort) = .ok i) :
    step (s.inTurn .producer) =
      exec i { s with events := s.events.tail, freeCount := s.freeCount + 1 } := by
  have e : (s.inTurn .producer).fetch = .ok i := h
  rw [step, e]
  rfl

end Sys2Proof.Machine
end

