-- ==== Sys2Proof/Laws/Storage.lean ====
section
/-! SUPPORT. Every operation over the two storage spaces keeps them within their capacities (R36 (I1), (I7)),
and the reset state has them so.
-/

namespace Sys2Proof.Machine

variable {s : State}

theorem Memory.wf_reset : Memory.wf State.reset := by decide

theorem Memory.wf_qPush (b : Bool) (h : Memory.wf s) : Memory.wf (s.qPush b) := by
  obtain ⟨hq, hp⟩ := h
  rcases State.qPush_cases b s with ⟨hl, e⟩ | ⟨-, e⟩ <;> rw [e]
  · exact ⟨by simp; omega, hp⟩
  · exact ⟨hq, hp⟩

theorem Memory.wf_qPop {b : Bool} {t : State} (h : Memory.wf s) (ht : s.qPop = some (b, t)) : Memory.wf t := by
  obtain ⟨r, hq, rfl⟩ := State.qPop_eq_some.1 ht
  obtain ⟨h1, h2⟩ := h
  rw [hq] at h1
  exact ⟨by simp at h1 ⊢; omega, h2⟩

theorem Memory.wf_pktAppend (v : Byte) (h : Memory.wf s) (hr : s.pktRoom = true) :
    Memory.wf (s.pktAppend v) := by
  simp only [State.pktRoom, decide_eq_true_eq] at hr
  exact ⟨h.1, by simp; omega⟩

theorem Memory.wf_decodeReset (h : Memory.wf s) : Memory.wf s.decodeReset := ⟨h.1, by simp⟩

theorem Memory.wf_emit (bytes : List Byte) (ok : Bool) (h : Memory.wf s) : Memory.wf (s.emit bytes ok) := h

theorem Memory.wf_takeAnomaly (a : Anomaly) (h : Memory.wf s) : Memory.wf (s.takeAnomaly a) := by
  cases a with
  | shortPacket => exact ⟨h.1, by simp [State.takeAnomaly]⟩
  | packetOverflow => exact ⟨h.1, by simp [State.takeAnomaly]⟩
  | _ => exact h

end Sys2Proof.Machine
end

