-- ==== Sys2Proof/Tests/Slice0.lean ====
section
/-! SUPPORT. Tests: ill-formed terms for each well-formedness check, words written out from the spec's encodings,
single steps whose expected values come from the spec's test vectors (`95_test_vectors.md`), and for each
statement with hypotheses a concrete state and operands that meet them.
-/

open Sys2Proof Sys2Proof.Machine

namespace Sys2Proof.Tests

/-- The next state of an outcome, if it is one. -/
def nextOf : Host.Outcome State Fault Refusal → Option State
  | .next s => some s
  | .fault _ => none
  | .refused _ => none

/-- A field of the next state. -/
def see (o : Host.Outcome State Fault Refusal) (f : State → α) : Option α := (nextOf o).map f

/-- A decode state in the order in which the test vectors write it. -/
def ds (p : Phase) (n : Nat) (k : Fin 9) (a : Byte) (bytes : List Byte) (x : Byte) : DecodeState :=
  { phase := p, oneCount := n, bitCnt := k, acc := a, pkt := bytes, xorAcc := x }

/-- The default configuration with `Q_DEPTH = 2` (T3, P4). -/
def cfgDepthTwo : Config := { Config.default with qDepth := 2 }

/-- The default configuration with `PKT_MAX_BYTES = 2` (T5). -/
def cfgTwoBytes : Config := { Config.default with pktMaxBytes := 2 }

/-- The smallest thresholds: a preamble of one One, packets of one byte. -/
def cfgTiny : Config := { Config.default with preambleMin := 1, minPacketLen := 1 }

/-- A state that seeks, with `n` Ones counted and the given bits queued. -/
def seeking (n : Nat) (bits : List Bool) : State := { State.reset with oneCount := n, q := bits }

/-- A state within a frame. -/
def framing (k : Fin 9) (a : Byte) (bytes : List Byte) (bits : List Bool) : State :=
  { State.reset with
    phase := .frame, bitCnt := k, acc := a, pkt := bytes, xorAcc := xorBytes bytes, q := bits }

/-- A state with a rising edge pending. -/
def risen (t : Nat) (bits : List Bool) : State :=
  { State.reset with lastRise := t, riseValid := true, q := bits }

/-! ### Well-formedness: each check refuses an ill-formed term -/

theorem test_config_default_well_formed : Config.default.wellFormed = true := by decide

/-- R6 (a). -/
theorem test_config_one_window_empty :
    { Config.default with ticksMinOne := 39 }.wellFormed = false := by decide

/-- R6 (a). -/
theorem test_config_zero_window_empty :
    { Config.default with ticksMinZero := 151 }.wellFormed = false := by decide

/-- R6 (b): the second calibration set of the source (S8). -/
theorem test_config_windows_share_a_delta :
    { Config.default with
      ticksMinOne := 200, ticksMaxOne := 500, ticksMinZero := 500, ticksMaxZero := 900 }.wellFormed = false ∧
    { Config.default with
      ticksMinOne := 200, ticksMaxOne := 499, ticksMinZero := 500, ticksMaxZero := 900 }.wellFormed = true := by
  decide

/-- R6 (c). -/
theorem test_config_window_too_wide :
    { Config.default with tsW := 7 }.wellFormed = false ∧ { Config.default with tsW := 8 }.wellFormed = true := by
  decide

/-- R6 (d). -/
theorem test_config_preamble_bounds :
    { Config.default with preambleMin := 0 }.wellFormed = false ∧
    { Config.default with preambleMin := 256 }.wellFormed = false ∧
    { Config.default with preambleMin := 255 }.wellFormed = true := by decide

/-- R6 (e). -/
theorem test_config_capacity_bounds :
    { Config.default with minPacketLen := 17 }.wellFormed = false ∧
    { Config.default with qDepth := 0 }.wellFormed = false ∧
    { Config.default with minPacketLen := 0, pktMaxBytes := 0 }.wellFormed = false ∧
    { Config.default with minPacketLen := 0 }.wellFormed = true := by decide

theorem test_timestamp_width :
    (Instr.pRise (2 ^ 32)).wellFormed 32 = false ∧ (Instr.pFall (2 ^ 32)).wellFormed 32 = false ∧
    (Instr.pRise (2 ^ 32 - 1)).wellFormed 32 = true ∧ (Instr.pFall 0).wellFormed 32 = true := by decide

theorem test_input_word_width :
    (InWord.ev (2 ^ 34)).wellFormed 32 = false ∧ (InWord.ev (2 ^ 34 - 1)).wellFormed 32 = true := by decide

/-! ### Decode: words written out bit by bit from R80, R84, R89 -/

theorem test_decode_reset :
    decode 32 (.reset 1#1) = .ok .rst ∧ decode 32 (.reset 0#1) = .error .resetNotAsserted := by decide

/-- `0x` and any timestamp. -/
theorem test_decode_p_idle :
    decode 32 (.ev 0b0000000000000000000000000000000000) = .ok .pIdle ∧
    decode 32 (.ev 0b0111111111111111111111111111111111) = .ok .pIdle := by decide

/-- `R@1000` of the EV notation. -/
theorem test_decode_p_rise :
    decode 32 (.ev 0b1100000000000000000000001111101000) = .ok (.pRise 1000) := by decide

/-- `F@1025` of the EV notation. -/
theorem test_decode_p_fall :
    decode 32 (.ev 0b1000000000000000000000010000000001) = .ok (.pFall 1025) := by decide

theorem test_decode_ev_too_wide :
    decode 32 (.ev 0b10000000000000000000000000000000000) = .error .evTooWide := by decide

theorem test_decode_c_wait :
    decode 32 (.sel 0b0000#4) = .ok .cWait ∧ decode 32 (.sel 0b0101#4) = .ok .cWait := by decide

theorem test_decode_c_seek1 :
    decode 32 (.sel 0b1001#4) = .ok .cSeek1 ∧ decode 32 (.sel 0b1011#4) = .ok .cSeek1 := by decide

theorem test_decode_c_seek0 :
    decode 32 (.sel 0b1000#4) = .ok .cSeek0 ∧ decode 32 (.sel 0b1010#4) = .ok .cSeek0 := by decide

theorem test_decode_c_shift :
    decode 32 (.sel 0b1100#4) = .ok (.cShift false) ∧ decode 32 (.sel 0b1101#4) = .ok (.cShift true) := by decide

theorem test_decode_c_flags :
    decode 32 (.sel 0b1110#4) = .ok .cFlag0 ∧ decode 32 (.sel 0b1111#4) = .ok .cFlag1 := by decide

/-- The rows of the operation table in one byte, one word each (C.WAIT at 0b0100, log 15). -/
theorem test_table_rows :
    decodeTableWord 8 0b1 = some .rst ∧ decodeTableWord 8 0b00 = some .pIdle ∧
    decodeTableWord 8 0b11 = some (.pRise 0) ∧ decodeTableWord 8 0b10 = some (.pFall 0) ∧
    decodeTableWord 8 0b0100 = some .cWait ∧ decodeTableWord 8 0b1001 = some .cSeek1 ∧
    decodeTableWord 8 0b1000 = some .cSeek0 ∧ decodeTableWord 8 0b1100 = some (.cShift false) ∧
    decodeTableWord 8 0b1110 = some .cFlag0 ∧ decodeTableWord 8 0b1111 = some .cFlag1 := by decide

/-- The rows at the table's own widths (1, 2 and 4 bits): no two rows share a word. -/
theorem test_table_rows_at_their_width :
    decodeTableWord 1 0b1 = some .rst ∧ decodeTableWord 2 0b00 = some .pIdle ∧
    decodeTableWord 2 0b01 = some .pIdle ∧ decodeTableWord 2 0b11 = some (.pRise 0) ∧
    decodeTableWord 4 0b0000 = some .cWait ∧ decodeTableWord 4 0b0001 = some .cWait ∧
    decodeTableWord 4 0b1001 = some .cSeek1 := by decide

/-- `withFetchWord` places the operation that the next step runs, for each row. -/
theorem test_placed_words_are_fetched :
    [0b1, 0b00, 0b11, 0b10, 0b0100, 0b1001, 0b1000, 0b1100, 0b1110, 0b1111].map
        (fun w => (State.reset.withFetchWord 8 w).fetch.toOption) =
      [some .rst, some .pIdle, some (.pRise 0), some (.pFall 0), some .cWait, some .cSeek1, some .cSeek0,
        some (.cShift false), some .cFlag0, some .cFlag1] := by decide

/-- From reset the placed Rising is latched by the very next step. -/
theorem test_placed_rising_runs :
    see (step (State.reset.withFetchWord 34 0x3000003E8)) (fun t => (t.lastRise, t.riseValid, t.events)) =
      some (1000, true, []) := by decide

/-! ### Single steps against the spec's vectors -/

/-- The state of T7 before reset. -/
def beforeReset : State :=
  { framing 5 0x15 [0x03, 0x64] [true, false, true] with
    lastRise := 4700, riseValid := true, qOvf := true, pktOvf := true, events := [0x300001388] }

/-- T7: one cycle of `rst = 1`; the presented Rising is lost. -/
theorem test_rst_cycle :
    see (beforeReset.clock true) State.decodeState = some (ds .seek 0 0 0x00 [] 0x00) ∧
    see (beforeReset.clock true) (fun t => (t.riseValid, t.q, t.qOvf, t.pktOvf)) =
      some (false, [], false, false) ∧
    see (beforeReset.clock true) (fun t => (t.out, t.events)) = some ([], []) ∧
    see (beforeReset.clock true) (fun t => (beforeReset.pktPort t).valid) = some false := by decide

/-- T7 as an operation of the step relation: the source keeps its events. -/
theorem test_rst_step :
    see (exec .rst beforeReset) (fun t => (t.riseValid, t.q, t.qOvf, t.pktOvf, t.events)) =
      some (false, [], false, false, [0x300001388]) := by decide

/-- T2, last line: P.IDLE changes nothing. -/
theorem test_p_idle : nextOf (exec .pIdle beforeReset) = some beforeReset := by decide

/-- T2 row 3: a repeated Rising overwrites. -/
theorem test_p_rise_overwrites :
    see (exec (.pRise 200) (risen 100 [])) (fun t => (t.lastRise, t.riseValid, t.q)) = some (200, true, []) := by
  decide

/-- T2 row 4: delta 25 is One, behind the bits already queued. -/
theorem test_p_fall_one :
    see (exec (.pFall 225) (risen 200 [false])) (fun t => (t.q, t.riseValid, t.lastRise)) =
      some ([false, true], false, 200) := by decide

/-- T2, wrap-around: delta 0x64 is Zero. -/
theorem test_p_fall_wraps :
    see (exec (.pFall 0x0000005E) (risen 0xFFFFFFFA [])) (fun t => (t.q, t.riseValid)) =
      some ([false], false) := by decide

/-- P4 step 6: the third bit is dropped at `Q_DEPTH = 2`. -/
theorem test_queue_overflow :
    see (exec (.pFall 125) { risen 100 [true, true] with cfg := cfgDepthTwo })
      (fun t => (t.q, t.qOvf, t.pNotes)) = some ([true, true], true, [.queueOverflow]) := by decide

/-- T3, same-cycle case: C pops and P offers `1` to a full queue of two: the push is dropped. -/
theorem test_cycle_full_queue :
    see ({ risen 100 [true, false] with cfg := cfgDepthTwo, events := [0x20000007D] }.clock false)
      (fun t => (t.q, t.qOvf)) = some ([false], true) := by decide

/-- T3, same-cycle case: P offers `1` to an empty queue: C waits. -/
theorem test_cycle_empty_queue :
    see ({ risen 100 [] with cfg := cfgDepthTwo, events := [0x20000007D] }.clock false)
      (fun t => (t.q, t.qOvf, t.cNotes)) = some ([true], false, [.queueUnderrun]) := by decide

/-- T5: `10101010` then queue empty: C.WAIT leaves the decode state. -/
theorem test_c_wait :
    see (exec .cWait (framing 8 0xAA [] [])) State.decodeState = some (ds .frame 0 8 0xAA [] 0x00) := by decide

/-- T4: `one_count` saturates at 255, and at 15 with `CNT_W = 4`. -/
theorem test_c_seek1_saturates :
    see (exec .cSeek1 (seeking 254 [true, true])) (fun t => (t.oneCount, t.q)) = some (255, [true]) ∧
    see (exec .cSeek1 (seeking 255 [true])) State.oneCount = some 255 ∧
    see (exec .cSeek1 { seeking 15 [true] with cfg := { Config.default with cntW := 4 } }) State.oneCount =
      some 15 := by decide

/-- S2, S6: ten Ones then a Zero hit. -/
theorem test_c_seek0_hit :
    see (exec .cSeek0 (seeking 10 [false, true])) (fun t => (t.decodeState, t.q)) =
      some (ds .frame 0 0 0x00 [] 0x00, [true]) := by decide

/-- S2, S6: nine Ones then a Zero miss. -/
theorem test_c_seek0_miss :
    see (exec .cSeek0 (seeking 9 [false])) (fun t => (t.decodeState, t.cNotes)) =
      some (ds .seek 0 0 0x00 [] 0x00, [.incompletePreamble]) := by decide

/-- T5, C.SHIFT single steps. -/
theorem test_c_shift :
    see (exec (.cShift true) (framing 3 0x06 [] [true])) (fun t => (t.acc, t.bitCnt.val)) = some (0x0D, 4) ∧
    see (exec (.cShift true) (framing 7 0x63 [0x01] [true])) (fun t => (t.acc, t.bitCnt.val)) =
      some (0xC7, 8) := by decide

/-- S3 step 12: a Zero shifted in. -/
theorem test_c_shift_zero :
    see (exec (.cShift false) (framing 2 0x03 [0x01] [false])) State.decodeState =
      some (ds .frame 0 3 0x06 [0x01] 0x01) := by decide

/-- S3 step 9. -/
theorem test_c_flag0_append :
    see (exec .cFlag0 (framing 8 0x01 [] [false])) State.decodeState = some (ds .frame 0 0 0x00 [0x01] 0x01) := by decide

/-- T5, packet-buffer overflow at the third byte's flag with `PKT_MAX_BYTES = 2`. -/
theorem test_c_flag0_overflow :
    see (exec .cFlag0 { framing 8 0x03 [0x01, 0x02] [false] with cfg := cfgTwoBytes })
      (fun t => (t.decodeState, t.pktOvf, t.out)) = some (ds .seek 0 0 0x00 [] 0x00, true, []) := by decide

/-- S3 step 18, and T6 `[0x03, 0x64, 0x67]`: emitted with the sideband. -/
theorem test_c_flag1_emit :
    see (exec .cFlag1 (framing 8 0xC7 [0x01] [true])) (fun t => (t.decodeState, t.out)) =
      some (ds .seek 0 0 0x00 [] 0x00, [{ bytes := [0x01, 0xC7], xorOk := false }]) ∧
    see (exec .cFlag1 (framing 8 0x67 [0x03, 0x64] [true])) State.out =
      some [{ bytes := [0x03, 0x64, 0x67], xorOk := true }] := by decide

/-- T6: `[0xAA]` with `MIN_PACKET_LEN` 2 and 0; T5: overflow at flag 1. -/
theorem test_c_flag1_short_and_overflow :
    see (exec .cFlag1 (framing 8 0xAA [] [true])) (fun t => (t.decodeState, t.out, t.cNotes)) =
      some (ds .seek 0 0 0x00 [] 0x00, [], [.shortPacket]) ∧
    see (exec .cFlag1 { framing 8 0xAA [] [true] with cfg := { Config.default with minPacketLen := 0 } })
      State.out = some [{ bytes := [0xAA], xorOk := false }] ∧
    see (exec .cFlag1 { framing 8 0x03 [0x01, 0x02] [true] with cfg := cfgTwoBytes })
      (fun t => (t.decodeState, t.pktOvf, t.out)) = some (ds .seek 0 0 0x00 [] 0x00, true, []) := by decide

/-- T1: the classifier's corners not in the statement of the classifier, and the repaired second set. -/
theorem test_classify :
    [1, 13, 25, 37, 50, 69, 100, 149, 1000].map (classify Config.default) =
      [.invalid, .one, .one, .one, .invalid, .zero, .zero, .zero, .invalid] ∧
    [199, 200, 499, 500, 900, 901].map (classify { Config.default with
      ticksMinOne := 200, ticksMaxOne := 499, ticksMinZero := 500, ticksMaxZero := 900 }) =
      [.invalid, .one, .one, .zero, .zero, .invalid] := by decide

/-- R88: byte `i` of a packet on its lane; `LEN_W` for 16 bytes is 5. -/
theorem test_pkt_lanes : laneData [0x01, 0xC7] = 0xC701 ∧ lenW Config.default = 5 := by decide

/-- The bits of S3's packet in the notation of R92. -/
theorem test_packet_bits :
    frameBits [0x01, 0xC7] =
      [false, false, false, false, false, false, false, true, false,
        true, true, false, false, false, true, true, true, true] := by decide

/-- P1, intervals 0 and 1: `PULSE(25, 25)` twice from `T = 1000`. -/
theorem test_pulse_words :
    pulseWords 32 1000 [(25, 25), (25, 25)] =
      [0x3000003E8, 0x200000401, 0x30000041A, 0x200000433] := by decide

/-! ### The statements' hypotheses are met

Each theorem shows a concrete state and operands that meet the hypotheses of the statement it names, one
conjunct or part per clause, at the clause's boundary values. -/

/-- A well-formed configuration exists: the hypothesis `s.cfg.WellFormed` alone (OperationsDecodeByFields,
RstPutsTheResetState, ResetStateMeetsTheInvariants, PIdleChangesNothing, ClassifierIsTwoWindows). -/
theorem test_meets_well_formed : State.reset.cfg.WellFormed ∧ cfgTiny.WellFormed ∧ beforeReset.cfg.WellFormed := by
  decide

theorem test_meets_decode_of_encode :
    (Instr.pRise (2 ^ 32 - 1)).wellFormed 32 = true ∧ (Instr.pFall 0).wellFormed 0 = true ∧
    (Instr.cShift true).wellFormed 32 = true := by decide

theorem test_meets_decode_by_fields :
    2 ^ 32 - 1 < 2 ^ 32 ∧ decode State.reset.cfg.tsW (.ev State.reset.evPort) = .ok .pIdle := by decide

/-- The two clauses of EvWordsDecodeExactlyWhenTheyFit meet at `2^34`. -/
theorem test_meets_ev_words : 2 ^ 34 - 1 < 2 ^ (32 + 2) ∧ 2 ^ (32 + 2) ≤ 2 ^ 34 := by decide

/-- A state whose next turn is the given one. -/
def turned (x : Turn) (es : List Nat) : State := { State.reset with sched := [x], events := es }

theorem test_meets_step_runs :
    ((turned .producer [0x3000003E8]).sched = .producer :: [] ∧
      (turned .producer [0x3000003E8]).events = 0x3000003E8 :: [] ∧
      decode (turned .producer [0x3000003E8]).cfg.tsW (.ev 0x3000003E8) = .ok (.pRise 1000)) ∧
    ((turned .producer []).sched = .producer :: [] ∧ (turned .producer []).events = []) ∧
    (turned .consumer []).sched = .consumer :: [] ∧ (turned .reset []).sched = .reset :: [] ∧
    State.reset.sched = [] := by decide

/-- Both phases, and `bit_cnt` at 7 and 8. -/
theorem test_meets_consumer_dispatch :
    State.reset.q = [] ∧ (seeking 0 [true]).q = true :: [] ∧
    decodeSel (seeking 0 [true]).sel = .cSeek1 ∧
    decodeSel (framing 7 0x00 [] [true]).sel = .cShift true ∧
    decodeSel (framing 8 0x00 [] [false]).sel = .cFlag0 := by decide

/-- ConsumerDispatch, the clause on the bits behind the head. -/
theorem test_meets_no_look_ahead :
    (framing 8 0x03 [0x03] [true, false]).q = true :: [false] ∧
    ∃ t, exec (decodeSel (framing 8 0x03 [0x03] [true, false]).sel) (framing 8 0x03 [0x03] [true, false]) = .next t :=
  ⟨rfl, ⟨_, rfl⟩⟩

/-- Either side of the equivalence is inhabited. -/
theorem test_meets_ill_formed_configuration :
    nextOf (exec .rst { State.reset with cfg := { Config.default with qDepth := 0 } }) = none ∧
    (nextOf (exec .rst State.reset)).isSome = true := by decide

theorem test_meets_unselected :
    State.reset.cfg.WellFormed ∧ Instr.cSeek1.isConsumer = true ∧ decodeSel State.reset.sel ≠ .cSeek1 := by decide

/-- A state that meets the invariants within a frame, with a packet emitted and a bit and an event waiting. -/
def busy : State :=
  { framing 3 0x06 [0x01] [true] with
    events := [0x3000003E8], out := [{ bytes := [0x03, 0x03], xorOk := true }] }

theorem test_busy_inv : busy.Inv where
  config := by decide
  lastRiseWidth := by decide
  oneCountWidth := by decide
  eventsFit := by decide
  storage := by decide
  seekEmpty := by decide
  frameCount := by decide
  accHigh := by decide
  xorAccIs := by decide
  outSound := by decide

/-- EveryStepAnswersANextState, InvariantsKeptByStep, InvariantsKeptByClock. -/
theorem test_meets_invariants :
    { busy with sched := [.consumer] }.Inv ∧
    (∃ t, step { busy with sched := [.consumer] } = .next t) ∧
    (∃ t, busy.clock false = .next t) ∧ ∃ t, busy.clock true = .next t :=
  ⟨{ test_busy_inv with }, ⟨_, rfl⟩, ⟨_, rfl⟩, ⟨_, rfl⟩⟩

theorem test_meets_p_idle : State.reset.cfg.WellFormed ∧ 2 ^ 33 - 1 < 2 ^ (32 + 1) := by decide

/-- Timestamps at both ends of the range, with and without a Rising pending. -/
theorem test_meets_p_rise :
    State.reset.cfg.WellFormed ∧ 0 < 2 ^ State.reset.cfg.tsW ∧ 2 ^ 32 - 1 < 2 ^ State.reset.cfg.tsW ∧
    State.reset.riseValid = false ∧ (risen 5 []).riseValid = true := by decide

/-- The clauses of PFallClassifiesAndEnqueues: the orphan; a One at 12 and 38; a Zero at 68 and 150; a full
queue; Invalid at 11, 39, 67 and 151. -/
theorem test_meets_p_fall :
    State.reset.riseValid = false ∧ (risen 100 []).riseValid = true ∧ (risen 100 []).cfg.WellFormed ∧
    [112, 138, 168, 250, 111, 139, 167, 251].all (fun t => decide (t < 2 ^ (risen 100 []).cfg.tsW)) = true ∧
    [112, 138, 168, 250, 111, 139, 167, 251].map (fun t => delta (risen 100 []).cfg t (risen 100 []).lastRise) =
      [12, 38, 68, 150, 11, 39, 67, 151] ∧
    ((12 : Nat) : Int) = (((112 : Nat) : Int) - ((risen 100 []).lastRise : Int)) % 2 ^ (risen 100 []).cfg.tsW ∧
    (risen 100 []).q.length < (risen 100 []).cfg.qDepth ∧
    { risen 100 [true, false] with cfg := cfgDepthTwo }.cfg.qDepth ≤ [true, false].length := by decide

theorem test_meets_classifier : Config.default.WellFormed ∧ cfgTiny.WellFormed := by decide

/-- DeltaIsElapsedTicks at the greatest interval. -/
theorem test_meets_delta : 2 ^ 32 - 1 < 2 ^ Config.default.tsW := by decide

theorem test_meets_noise :
    (risen 100 []).cfg.WellFormed ∧ 139 < 2 ^ (risen 100 []).cfg.tsW ∧ (risen 100 []).riseValid = true ∧
    classify (risen 100 []).cfg (delta (risen 100 []).cfg 139 (risen 100 []).lastRise) = .invalid ∧
    State.reset.riseValid = false := by decide

/-- ProducerReadsNoConsumerState: a Falling on an empty and on a full queue, the two configurations alike in the
windows and `TS_W` alone. -/
theorem test_meets_producer_reads :
    let a : State := { risen 100 [] with cfg := cfgTiny }
    let b : State := { framing 3 0x06 [] [true, true] with lastRise := 100, riseValid := true, cfg := cfgDepthTwo }
    a.cfg ≠ b.cfg ∧
    a.cfg.ticksMinOne = b.cfg.ticksMinOne ∧ a.cfg.ticksMaxOne = b.cfg.ticksMaxOne ∧
    a.cfg.ticksMinZero = b.cfg.ticksMinZero ∧ a.cfg.ticksMaxZero = b.cfg.ticksMaxZero ∧
    a.cfg.tsW = b.cfg.tsW ∧ a.lastRise = b.lastRise ∧ a.riseValid = b.riseValid ∧
    (∃ t, exec (.pFall 125) a = .next t) ∧ ∃ t, exec (.pFall 125) b = .next t :=
  ⟨by decide, rfl, rfl, rfl, rfl, rfl, rfl, rfl, ⟨_, rfl⟩, ⟨_, rfl⟩⟩

/-- LastRiseUnobservableWhileNotPending: a Rising, a Falling and a consumer operation. -/
theorem test_meets_last_rise :
    State.reset.riseValid = false ∧ (∃ t, exec (.pRise 7) State.reset = .next t) ∧
    (∃ t, exec (.pFall 7) State.reset = .next t) ∧ ∃ t, exec .cWait State.reset = .next t :=
  ⟨rfl, ⟨_, rfl⟩, ⟨_, rfl⟩, ⟨_, rfl⟩⟩

/-- QueuePrimitives: one bit short of the capacity, and at it. -/
theorem test_meets_queue_primitives :
    { seeking 0 [true] with cfg := cfgDepthTwo }.q.length < cfgDepthTwo.qDepth ∧
    cfgDepthTwo.qDepth ≤ { seeking 0 [true, true] with cfg := cfgDepthTwo }.q.length ∧
    State.reset.q = [] ∧ (seeking 0 [true]).q = true :: [] := by decide

/-- QueueIsFifo: T3 in one sequence of uses drops a bit; without the third push nothing is dropped. -/
theorem test_meets_queue_fifo :
    let s : State := { State.reset with cfg := cfgDepthTwo }
    (s.useQueue [.pop, .push true, .push false, .push true, .pop, .push true, .pop, .pop, .pop]).2 =
      ([true, false, true], [true, false, true]) ∧
    (s.useQueue [.pop, .push true, .push false, .push true, .pop]).1.qOvf = true ∧
    (s.useQueue [.pop, .push true, .push false, .pop]).1.qOvf = false ∧ s.q = [] := by decide

/-- QOvfIsSticky: an operation that sets the flag, one that keeps it, and RST. -/
theorem test_meets_q_ovf :
    see (exec (.pFall 125) { risen 100 [true, true] with cfg := cfgDepthTwo }) State.qOvf = some true ∧
    see (exec (.pFall 125) (risen 100 [])) State.qOvf = some false ∧
    see (exec .rst beforeReset) State.qOvf = some false := by decide

theorem test_meets_c_wait :
    State.reset.cfg.WellFormed ∧ State.reset.q = [] ∧ (framing 8 0xAA [] []).q = [] := by decide

/-- CSeek1CountsAOne, below saturation and at it. -/
theorem test_meets_c_seek1 :
    (seeking 254 [true]).cfg.WellFormed ∧ (seeking 254 [true]).phase = .seek ∧
    (seeking 254 [true]).q = true :: [] ∧ (seeking 254 [true]).oneCount < 2 ^ Config.default.cntW - 1 ∧
    ¬ (seeking 255 [true]).oneCount < 2 ^ Config.default.cntW - 1 := by decide

/-- CSeek0HitsOrMisses at the threshold and one below. -/
theorem test_meets_c_seek0 :
    (seeking 10 [false]).cfg.WellFormed ∧ (seeking 10 [false]).phase = .seek ∧
    (seeking 10 [false]).q = false :: [] ∧ Config.default.preambleMin ≤ (seeking 10 [false]).oneCount ∧
    (seeking 9 [false]).oneCount < Config.default.preambleMin := by decide

/-- PreambleIsARunOfEnoughOnes with two Ones on eight already counted. -/
theorem test_meets_preamble_run :
    let s : State := { seeking 8 [true, true, false] with sched := List.replicate 3 .consumer }
    s.cfg.WellFormed ∧ s.phase = .seek ∧ s.q = List.replicate 2 true ++ false :: [] ∧
    s.sched = List.replicate (2 + 1) Turn.consumer ++ [] := by decide

theorem test_meets_c_shift :
    (framing 7 0x63 [0x01] [true]).cfg.WellFormed ∧ (framing 7 0x63 [0x01] [true]).phase = .frame ∧
    (framing 7 0x63 [0x01] [true]).bitCnt.val < 8 ∧ (framing 0 0x00 [] [true]).bitCnt.val < 8 ∧
    (framing 7 0x63 [0x01] [true]).q = true :: [] := by decide

/-- CShiftShiftsABitIn: the invariants as well. -/
theorem test_meets_c_shift_inv :
    busy.Inv ∧ busy.cfg.WellFormed ∧ busy.phase = .frame ∧ busy.bitCnt.val < 8 ∧ busy.q = true :: [] :=
  ⟨test_busy_inv, by decide, rfl, by decide, rfl⟩

/-- CFlag0AppendsTheByte with room for one byte, and with none. -/
theorem test_meets_c_flag0 :
    let s : State := { framing 8 0x03 [0x01] [false] with cfg := cfgTwoBytes }
    let f : State := { framing 8 0x03 [0x01, 0x02] [false] with cfg := cfgTwoBytes }
    s.cfg.WellFormed ∧ s.phase = .frame ∧ s.bitCnt.val = 8 ∧ s.q = false :: [] ∧
    s.pkt.length < s.cfg.pktMaxBytes ∧ f.cfg.WellFormed ∧ f.phase = .frame ∧ f.bitCnt.val = 8 ∧
    f.q = false :: [] ∧ f.cfg.pktMaxBytes ≤ f.pkt.length := by decide

/-- CFlag1EndsThePacket: the least packet that is emitted, the longest that is too short, the full buffer. -/
theorem test_meets_c_flag1 :
    let e : State := { framing 8 0x03 [0x01] [true] with cfg := cfgTwoBytes }
    let h : State := { framing 8 0x03 [] [true] with cfg := cfgTwoBytes }
    let f : State := { framing 8 0x03 [0x01, 0x02] [true] with cfg := cfgTwoBytes }
    (e.cfg.WellFormed ∧ e.phase = .frame ∧ e.bitCnt.val = 8 ∧ e.q = true :: []) ∧
    (e.pkt.length < e.cfg.pktMaxBytes ∧ e.cfg.minPacketLen ≤ e.pkt.length + 1) ∧
    (h.phase = .frame ∧ h.bitCnt.val = 8 ∧ h.q = true :: []) ∧
    (h.pkt.length < h.cfg.pktMaxBytes ∧ h.pkt.length + 1 < h.cfg.minPacketLen) ∧
    (f.phase = .frame ∧ f.bitCnt.val = 8 ∧ f.q = true :: []) ∧ f.cfg.pktMaxBytes ≤ f.pkt.length := by decide

/-- FirstDataBitIsBitSeven: the byte 0xC7 of S3, its flag behind it. -/
theorem test_meets_first_data_bit :
    let s : State := { framing 0 0x00 [] [true, true, false, false, false, true, true, true, true] with
      sched := List.replicate 8 .consumer }
    s.cfg.WellFormed ∧ s.phase = .frame ∧ s.bitCnt = 0 ∧
    s.q = true :: true :: false :: false :: false :: true :: true :: true :: [true] ∧
    s.sched = List.replicate 8 Turn.consumer ++ [] := by decide

/-- PacketBufferOverflow: both clauses, at `PKT_MAX_BYTES = 2`. -/
theorem test_meets_packet_overflow :
    let f : State := { framing 8 0x03 [0x01, 0x02] [false] with cfg := cfgTwoBytes }
    let e : State := { framing 8 0xC7 [0x01] [true] with cfg := cfgTwoBytes }
    f.cfg.WellFormed ∧ f.phase = .frame ∧ f.bitCnt.val = 8 ∧ f.q = false :: [] ∧
    f.pkt.length = f.cfg.pktMaxBytes ∧ e.cfg.WellFormed ∧ e.phase = .frame ∧ e.bitCnt.val = 8 ∧
    e.q = true :: [] ∧ e.pkt.length + 1 = e.cfg.pktMaxBytes := by decide

/-- PktOvfIsSticky: an operation that sets the flag, one that does not, and RST. -/
theorem test_meets_pkt_ovf :
    see (exec .cFlag1 { framing 8 0x03 [0x01, 0x02] [true] with cfg := cfgTwoBytes }) State.pktOvf = some true ∧
    see (exec .cFlag0 (framing 8 0x01 [] [false])) State.pktOvf = some false ∧
    see (exec .rst beforeReset) State.pktOvf = some false := by decide

/-- A state that meets the invariants and whose next C operation emits. -/
def ending : State := framing 8 0x03 [0x03] [true]

theorem test_ending_inv : ending.Inv where
  config := by decide
  lastRiseWidth := by decide
  oneCountWidth := by decide
  eventsFit := by decide
  storage := by decide
  seekEmpty := by decide
  frameCount := by decide
  accHigh := by decide
  xorAccIs := by decide
  outSound := by decide

/-- XorOkIsAdvisory, OnlyFlag1Emits, PktPortCarriesThePacket. -/
theorem test_meets_emission :
    ending.Inv ∧ (∃ t, exec .cFlag1 ending = .next t ∧ t.out ≠ ending.out) ∧
    (∃ t, ending.clock false = .next t ∧ t.out ≠ ending.out) ∧ ∃ t, busy.clock false = .next t ∧ t.out = busy.out :=
  ⟨test_ending_inv, ⟨_, rfl, by decide⟩, ⟨_, rfl, by decide⟩, ⟨_, rfl, rfl⟩⟩

/-- ControlStateAdvances, AgentsWriteTheirOwnState, ConsumerReadsNoProducerState: each kind of operation. -/
theorem test_meets_control_state :
    ending.Inv ∧ busy.Inv ∧ (∃ t, exec .cFlag1 ending = .next t) ∧ (∃ t, exec (.cShift true) busy = .next t) ∧
    (∃ t, exec (.pRise 5) busy = .next t) ∧ (∃ t, exec .rst busy = .next t) ∧
    Instr.cFlag1.isConsumer = true ∧ (Instr.pRise 5).isProducer = true :=
  ⟨test_ending_inv, test_busy_inv, ⟨_, rfl⟩, ⟨_, rfl⟩, ⟨_, rfl⟩, ⟨_, rfl⟩, rfl, rfl⟩

/-- ControlStateAdvances: an idle seeking state for the remaining operations. -/
theorem test_meets_control_state_seeking :
    (∃ t, exec .cWait State.reset = .next t) ∧ (∃ t, exec .cSeek1 (seeking 0 [true]) = .next t) ∧
    (∃ t, exec .cSeek0 (seeking 10 [false]) = .next t) ∧
    ∃ t, exec .cFlag0 (framing 8 0x01 [] [false]) = .next t :=
  ⟨⟨_, rfl⟩, ⟨_, rfl⟩, ⟨_, rfl⟩, ⟨_, rfl⟩⟩

/-- AnomaliesAsTabled, AtMostOneAnomalyPerOperation: one operation for each of A1 to A6. -/
theorem test_meets_anomalies :
    see (exec (.pFall 139) (risen 100 [])) State.pNotes = some [.timingNoise] ∧
    see (exec .cSeek0 (seeking 9 [false])) State.cNotes = some [.incompletePreamble] ∧
    see (exec .cWait State.reset) State.cNotes = some [.queueUnderrun] ∧
    see (exec .cFlag1 (framing 8 0xAA [] [true])) State.cNotes = some [.shortPacket] ∧
    see (exec (.pFall 125) { risen 100 [true, true] with cfg := cfgDepthTwo }) State.pNotes =
      some [.queueOverflow] ∧
    see (exec .cFlag0 { framing 8 0x03 [0x01, 0x02] [false] with cfg := cfgTwoBytes }) State.cNotes =
      some [.packetOverflow] := by decide

/-- AnomaliesAsTabled: the causes of the six, as its last clauses state them. -/
theorem test_meets_anomaly_causes :
    let n : State := risen 100 []
    let o : State := { risen 100 [true, true] with cfg := cfgDepthTwo }
    let f : State := { framing 8 0x03 [0x01, 0x02] [true] with cfg := cfgTwoBytes }
    (n.riseValid = true ∧ classify n.cfg (delta n.cfg (139 % 2 ^ n.cfg.tsW) n.lastRise) = .invalid) ∧
    (o.riseValid = true ∧ classify o.cfg (delta o.cfg (125 % 2 ^ o.cfg.tsW) o.lastRise) ≠ .invalid ∧
      o.cfg.qDepth ≤ o.q.length) ∧
    (seeking 9 [false]).oneCount < (seeking 9 [false]).cfg.preambleMin ∧
    ((framing 8 0xAA [] [true]).pkt.length < (framing 8 0xAA [] [true]).cfg.pktMaxBytes ∧
      (framing 8 0xAA [] [true]).pkt.length + 1 < (framing 8 0xAA [] [true]).cfg.minPacketLen) ∧
    f.cfg.pktMaxBytes ≤ f.pkt.length := by decide

/-- ClockCycleIsAnInterleaving: a full queue, an empty one and one between, each with a Falling presented. -/
theorem test_meets_clock_cycle :
    let s (bits : List Bool) : State := { risen 100 bits with cfg := cfgDepthTwo, events := [0x20000007D] }
    decode (s []).cfg.tsW (.ev (s []).evPort) = .ok (.pFall 125) ∧
    (s [true, true]).cfg.qDepth ≤ (s [true, true]).q.length ∧ (s []).q = [] ∧
    (s [true]).q ≠ [] ∧ (s [true]).q.length < (s [true]).cfg.qDepth := by decide

/-- ClockNeverOverflowsTheQueue: no Rising pending and a bit waiting; a Rising pending and none waiting. -/
theorem test_meets_at_most_one_bit :
    ((seeking 0 [true]).AtMostOneBit ∧ ∃ t, (seeking 0 [true]).clock false = .next t) ∧
    ((risen 100 []).AtMostOneBit ∧ ∃ t, { risen 100 [] with events := [0x20000007D] }.clock false = .next t) :=
  ⟨⟨by decide, ⟨_, rfl⟩⟩, ⟨by decide, ⟨_, rfl⟩⟩⟩

/-- QuiescentResultIsScheduleIndependent: one interval, taken by two schedules. -/
theorem test_meets_schedules :
    let s : State := { State.reset with events := [0x3000003E8, 0x200000401] }
    let p : Turn := .producer
    let c : Turn := .consumer
    (∃ t, { s with sched := [p, p, c] }.runFor 3 = .next t ∧ t.Quiescent ∧ t.qOvf = false) ∧
    (∃ t, { s with sched := [p, c, p, c] }.runFor 4 = .next t ∧ t.Quiescent ∧ t.qOvf = false) ∧
    Turn.reset ∉ [p, p, c] ∧ Turn.reset ∉ [p, c, p, c] :=
  ⟨⟨_, rfl, by decide, rfl⟩, ⟨_, rfl, by decide, rfl⟩, by decide, by decide⟩

theorem test_meets_quiescent :
    (turned .consumer []).cfg.WellFormed ∧ (turned .consumer []).Quiescent ∧
    (turned .consumer []).sched = .consumer :: [] ∧ (turned .producer []).sched = .producer :: [] := by decide

/-- StepsApproachQuiescence: an event to take, and a bit to take. -/
theorem test_meets_approach :
    ((turned .producer [0x3000003E8]).turn ≠ .reset ∧ (turned .producer [0x3000003E8]).events ≠ [] ∧
      ∃ t, step (turned .producer [0x3000003E8]) = .next t) ∧
    ({ seeking 0 [true] with sched := [.consumer] }.turn = .consumer ∧
      ∃ t, step { seeking 0 [true] with sched := [.consumer] } = .next t) :=
  ⟨⟨by decide, by decide, ⟨_, rfl⟩⟩, ⟨by decide, ⟨_, rfl⟩⟩⟩

/-- A fair schedule: the two agents in turn. -/
def alternating : Schedule := fun k => if k % 2 = 0 then .producer else .consumer

theorem test_alternating_fair : alternating.Fair ∧ alternating.ResetFree :=
  ⟨fun n => ⟨2 * n + 1, by omega, by simp [alternating, Nat.add_mod]⟩,
    fun k => by unfold alternating; split <;> simp⟩

/-- A schedule that gives agent C no turn is not fair (R192). -/
theorem test_producer_only_not_fair : ¬ Schedule.Fair fun _ => .producer := fun h => by
  obtain ⟨_, _, h⟩ := h 0
  cases h

/-- P4 steps 7 and 9 with a turn of agent P between: the One is counted, then C waits. -/
theorem test_run_under :
    ((seeking 0 [true]).runUnder alternating 4).decodeState = ds .seek 1 0 0x00 [] 0x00 ∧
    ((seeking 0 [true]).runUnder alternating 4).cNotes = [.queueUnderrun] := by decide

/-- RunsNeverStop, FairRunTakesTheHeadBit, FairRunBecomesQuiescent, ClockRunIsAFairRun: a bit that waits, and a
source that has presented all. -/
theorem test_meets_fair_run :
    busy.Inv ∧ ending.Inv ∧ alternating.Fair ∧ alternating.ResetFree ∧
    (busy.runUnder alternating 0).q = true :: [] ∧ (ending.runUnder alternating 0).events = [] :=
  ⟨test_busy_inv, test_ending_inv, test_alternating_fair.1, test_alternating_fair.2, rfl, rfl⟩

/-- A packet of one byte waits in the queue, a One behind it. -/
def waiting : State := { seeking 0 (packetBits 1 [0x00] ++ [true]) with cfg := cfgTiny }

theorem test_waiting_inv : waiting.Inv where
  config := by decide
  lastRiseWidth := by decide
  oneCountWidth := by decide
  eventsFit := by decide
  storage := by decide
  seekEmpty := by decide
  frameCount := by decide
  accHigh := by decide
  xorAccIs := by decide
  outSound := by decide

theorem test_meets_fair_packet :
    waiting.Inv ∧ alternating.Fair ∧ alternating.ResetFree ∧ waiting.decodeState = .initial ∧
    waiting.cfg.preambleMin ≤ 1 ∧ [(0x00 : Byte)] ≠ [] ∧ waiting.cfg.minPacketLen ≤ [(0x00 : Byte)].length ∧
    [(0x00 : Byte)].length ≤ waiting.cfg.pktMaxBytes ∧ waiting.q = packetBits 1 [0x00] ++ [true] :=
  ⟨test_waiting_inv, test_alternating_fair.1, test_alternating_fair.2, by decide⟩

/-- `Q_DEPTH = 2` and three pulses of a One to come. -/
def crowded : State :=
  { State.reset with cfg := cfgDepthTwo, events := pulseWords 32 0 [(25, 25), (25, 25), (25, 25)] }

theorem test_crowded_inv : crowded.Inv where
  config := by decide
  lastRiseWidth := by decide
  oneCountWidth := by decide
  eventsFit := by decide
  storage := by decide
  seekEmpty := by decide
  frameCount := by decide
  accHigh := by decide
  xorAccIs := by decide
  outSound := by decide

/-- UnfairRunEmitsNothingAndOverflows, both clauses: the events of P4, one bit more than the queue holds. -/
theorem test_meets_unfair_run :
    crowded.Inv ∧ (∀ k : Nat, 0 ≤ k → (fun _ => .producer : Schedule) k = .producer) ∧
    (∀ x ∈ [(25, 25), (25, 25), (25, 25)], x.1 < 2 ^ crowded.cfg.tsW) ∧
    crowded.events = pulseWords crowded.cfg.tsW 0 [(25, 25), (25, 25), (25, 25)] ++ [] ∧
    crowded.cfg.qDepth < crowded.q.length + (pulseBits crowded.cfg [(25, 25), (25, 25), (25, 25)]).length :=
  ⟨test_crowded_inv, fun _ _ => rfl, by decide⟩

/-- PacketBitsDecodeToThePacket: one Zero byte behind one One, at the smallest thresholds. -/
theorem test_meets_packet_bits :
    let s : State := { seeking 0 (packetBits 1 [0x00]) with
      cfg := cfgTiny, sched := List.replicate 11 .consumer }
    s.cfg.WellFormed ∧ s.decodeState = .initial ∧ s.cfg.preambleMin ≤ 1 ∧ [(0x00 : Byte)] ≠ [] ∧
    s.cfg.minPacketLen ≤ [(0x00 : Byte)].length ∧ [(0x00 : Byte)].length ≤ s.cfg.pktMaxBytes ∧
    s.q = packetBits 1 [0x00] ++ [] ∧ s.sched = List.replicate (1 + 1 + 9 * [(0x00 : Byte)].length) .consumer ++ [] := by
  decide

/-- BackToBackPacketsDecode: two packets of one byte. -/
theorem test_meets_back_to_back :
    let s : State := { seeking 0 (packetBits 1 [0x00] ++ packetBits 2 [0xAA]) with
      cfg := cfgTiny, sched := List.replicate 23 .consumer }
    s.cfg.WellFormed ∧ s.decodeState = .initial ∧ s.cfg.preambleMin ≤ 1 ∧ s.cfg.preambleMin ≤ 2 ∧
    s.cfg.minPacketLen ≤ [(0xAA : Byte)].length ∧ [(0xAA : Byte)].length ≤ s.cfg.pktMaxBytes ∧
    s.q = packetBits 1 [0x00] ++ packetBits 2 [0xAA] ++ [] ∧
    s.sched = List.replicate (1 + 2 + 2 + 9 * ([(0x00 : Byte)].length + [(0xAA : Byte)].length)) .consumer ++ [] := by
  decide

/-- A One, a NOISE interval, nine Zeros and a One: the packet `[0x00]` behind a preamble of one One. -/
def tinyPulses : List (Nat × Nat) :=
  [(25, 25), (50, 50)] ++ List.replicate 9 (100, 100) ++ [(25, 25)]

/-- ClockedRoundTrip: noise among the pulses, and timestamps that wrap. -/
theorem test_meets_clocked_round_trip :
    let s : State := { State.reset with cfg := cfgTiny, events := pulseWords 32 0xFFFFFF00 tinyPulses }
    s.cfg.WellFormed ∧ s.decodeState = .initial ∧ s.q = [] ∧ s.cfg.preambleMin ≤ 1 ∧
    s.cfg.minPacketLen ≤ [(0x00 : Byte)].length ∧ [(0x00 : Byte)].length ≤ s.cfg.pktMaxBytes ∧
    (∀ x ∈ tinyPulses, x.1 < 2 ^ s.cfg.tsW) ∧ pulseBits s.cfg tinyPulses = packetBits 1 [0x00] ∧
    s.events = pulseWords s.cfg.tsW 0xFFFFFF00 tinyPulses := by decide

end Sys2Proof.Tests
end

section
/-! PROOFS. The scope of the block: an ill-formed configuration is refused (R6, R10). -/

namespace Sys2Proof.Machine

/-- The guard of agent P's operations and of RST refuses for the configuration and for nothing else. -/
theorem State.configured_illFormedConfig_iff {s : State} {k : State → State} :
    s.configured k = .refused .illFormedConfig ↔ ¬ s.cfg.WellFormed := by
  refine ⟨fun hr hwf => ?_, configured_refused⟩
  simp [configured_next.mpr ⟨hwf, rfl⟩] at hr

/-- The guard of agent C's operations: what the selector word does not select is refused for another
reason. -/
theorem State.selected_illFormedConfig_iff {s : State} {i : Instr} {k : State → State} :
    s.selected i k = .refused .illFormedConfig ↔ ¬ s.cfg.WellFormed := by
  refine ⟨fun hr hwf => ?_, selected_refused⟩
  by_cases hi : decodeSel s.sel = i
  · simp [selected_next.mpr ⟨hwf, hi, rfl⟩] at hr
  · simp [selected_notSelected hwf hi] at hr

/-- Every operation of R89 stands behind one of the two guards. -/
theorem exec_illFormedConfig_iff (i : Instr) (s : State) :
    exec i s = .refused .illFormedConfig ↔ ¬ s.cfg.WellFormed := by
  cases i with
  | pIdle => exact State.configured_illFormedConfig_iff (k := fun s => s)
  | rst | pRise _ | pFall _ => exact State.configured_illFormedConfig_iff
  | cWait | cSeek1 | cSeek0 | cShift _ | cFlag0 | cFlag1 => exact State.selected_illFormedConfig_iff

/-- Settles O7: the two guards refuse exactly when the configuration is not well-formed, and well-formedness
is the conjunction of (a) to (e). -/
theorem illFormedConfigurationRefused : Obligations.IllFormedConfigurationRefused := by
  intro i s
  rw [exec_illFormedConfig_iff, wellFormed_iff]
  simp only [and_assoc]

end Sys2Proof.Machine
end

section
/-! PROOFS. The sticky overflow flags (R24, R31) and the reset of the decode state (R39, R174). -/

namespace Sys2Proof.Machine

/-! `q_ovf` (R24): which operation writes it, and when. -/

/-- Only a delta outside both windows has no queue bit (R82). -/
theorem classBit_eq_none_iff {r : BitClass} : classBit r = none ↔ r = .invalid := by
  cases r <;> simp [classBit]

@[simp] theorem State.endRun_qOvf (s : State) : s.endRun.qOvf = s.qOvf := by
  rcases s.endRun_cases with ⟨-, e⟩ | ⟨-, e⟩ <;> rw [e]

@[simp] theorem State.flagZero_qOvf (s : State) : s.flagZero.qOvf = s.qOvf := by
  rcases s.flagZero_cases with ⟨-, e⟩ | ⟨-, e⟩ <;> rw [e] <;> rfl

@[simp] theorem State.flagOne_qOvf (s : State) : s.flagOne.qOvf = s.qOvf := by
  rcases s.flagOne_cases with ⟨-, -, e⟩ | ⟨-, -, e⟩ | ⟨-, e⟩ <;> rw [e] <;> rfl

/-- Of the four branches of P.FALL (R112) the dropped bit alone sets `q_ovf`. -/
theorem State.fall_qOvf_iff (u : Nat) (s : State) :
    (s.fall u).qOvf = true ↔ s.qOvf = true ∨
      (s.riseValid = true ∧ s.cfg.qDepth ≤ s.q.length ∧
        classify s.cfg (delta s.cfg (tsOperand s.cfg u) s.lastRise) ≠ .invalid) := by
  rcases s.fall_cases u with ⟨hv, e⟩ | ⟨hv, b, hb, ⟨hroom, e⟩ | ⟨hfull, e⟩⟩ | ⟨hv, hc, e⟩ <;> rw [e]
  · simp [hv]
  · simp [hroom]
  · have hc : classify s.cfg (delta s.cfg (tsOperand s.cfg u) s.lastRise) ≠ .invalid := fun hc => by
      simp [classBit_eq_none_iff.2 hc] at hb
    simp [hv, hfull, hc]
  · simp [hc]

/-- Beside RST and P.FALL no operation writes `q_ovf` (R24). -/
theorem exec_qOvf_eq {i : Instr} {s t : State} (hrst : i ≠ .rst) (hfall : ∀ u, i ≠ .pFall u)
    (h : exec i s = .next t) : t.qOvf = s.qOvf := by
  cases i with
  | rst => exact absurd rfl hrst
  | pFall u => exact absurd rfl (hfall u)
  | pIdle => obtain ⟨-, rfl⟩ := exec_pIdle_next.1 h; rfl
  | pRise u => obtain ⟨-, rfl⟩ := exec_pRise_next.1 h; rfl
  | cWait => obtain ⟨-, -, rfl⟩ := exec_cWait_next.1 h; rfl
  | cSeek1 => obtain ⟨-, -, r, -, rfl⟩ := exec_cSeek1_next.1 h; rfl
  | cSeek0 => obtain ⟨-, -, r, -, rfl⟩ := exec_cSeek0_next.1 h; exact State.endRun_qOvf _
  | cShift b => obtain ⟨-, -, -, r, -, rfl⟩ := exec_cShift_next.1 h; rfl
  | cFlag0 => obtain ⟨-, -, -, r, -, rfl⟩ := exec_cFlag0_next.1 h; exact State.flagZero_qOvf _
  | cFlag1 => obtain ⟨-, -, -, r, -, rfl⟩ := exec_cFlag1_next.1 h; exact State.flagOne_qOvf _

/-- Settles O23: P.FALL sets the flag on its dropping branch, RST clears it, every other operation keeps it. -/
theorem qOvfIsSticky : Obligations.QOvfIsSticky := by
  refine ⟨fun i s t hrst h => ?_, fun s t h => ?_, rfl⟩
  · cases i with
    | rst => exact absurd rfl hrst
    | pFall u =>
      obtain ⟨-, rfl⟩ := exec_pFall_next.1 h
      simp [State.fall_qOvf_iff, tsOperand]
    | _ => simp [exec_qOvf_eq hrst (by simp) h]
  · obtain ⟨-, rfl⟩ := exec_rst_next.1 h
    exact s.toReset_qOvf

/-! `pkt_ovf` (R31): which operation writes it, and when. -/

@[simp] theorem State.fall_pktOvf (u : Nat) (s : State) : (s.fall u).pktOvf = s.pktOvf := by
  rcases s.fall_cases u with ⟨-, e⟩ | ⟨-, _, -, ⟨-, e⟩ | ⟨-, e⟩⟩ | ⟨-, -, e⟩ <;> rw [e]

@[simp] theorem State.endRun_pktOvf (s : State) : s.endRun.pktOvf = s.pktOvf := by
  rcases s.endRun_cases with ⟨-, e⟩ | ⟨-, e⟩ <;> rw [e]

/-- Flag 0 sets `pkt_ovf` where it does not append (R151). -/
theorem State.flagZero_pktOvf_iff (s : State) :
    s.flagZero.pktOvf = true ↔ s.pktOvf = true ∨ s.cfg.pktMaxBytes ≤ s.pkt.length := by
  rcases s.flagZero_cases with ⟨hroom, e⟩ | ⟨hfull, e⟩ <;> rw [e]
  · simp [hroom]
  · simp [hfull, State.takeAnomaly_packetOverflow]

/-- Flag 1 sets `pkt_ovf` where it has no room for the last byte; a short packet does not set it (R152, R171). -/
theorem State.flagOne_pktOvf_iff (s : State) :
    s.flagOne.pktOvf = true ↔ s.pktOvf = true ∨ s.cfg.pktMaxBytes ≤ s.pkt.length := by
  rcases s.flagOne_cases with ⟨hroom, -, e⟩ | ⟨hroom, -, e⟩ | ⟨hfull, e⟩ <;> rw [e]
  · simp [hroom]
  · simp [hroom, State.takeAnomaly_shortPacket]
  · simp [hfull, State.takeAnomaly_packetOverflow]

/-- Beside RST, C.FLAG0 and C.FLAG1 no operation writes `pkt_ovf` (R31). -/
theorem exec_pktOvf_eq {i : Instr} {s t : State} (hrst : i ≠ .rst) (hflag0 : i ≠ .cFlag0)
    (hflag1 : i ≠ .cFlag1) (h : exec i s = .next t) : t.pktOvf = s.pktOvf := by
  cases i with
  | rst => exact absurd rfl hrst
  | cFlag0 => exact absurd rfl hflag0
  | cFlag1 => exact absurd rfl hflag1
  | pIdle => obtain ⟨-, rfl⟩ := exec_pIdle_next.1 h; rfl
  | pRise u => obtain ⟨-, rfl⟩ := exec_pRise_next.1 h; rfl
  | pFall u => obtain ⟨-, rfl⟩ := exec_pFall_next.1 h; exact s.fall_pktOvf u
  | cWait => obtain ⟨-, -, rfl⟩ := exec_cWait_next.1 h; rfl
  | cSeek1 => obtain ⟨-, -, r, -, rfl⟩ := exec_cSeek1_next.1 h; rfl
  | cSeek0 => obtain ⟨-, -, r, -, rfl⟩ := exec_cSeek0_next.1 h; exact State.endRun_pktOvf _
  | cShift b => obtain ⟨-, -, -, r, -, rfl⟩ := exec_cShift_next.1 h; rfl

/-- Settles O34: the two flag operations set it on a full buffer, RST clears it, every other operation keeps
it. -/
theorem pktOvfIsSticky : Obligations.PktOvfIsSticky := by
  refine ⟨fun i s t hrst h => ?_, fun s t h => ?_, rfl⟩
  · cases i with
    | rst => exact absurd rfl hrst
    | cFlag0 =>
      obtain ⟨-, -, -, r, -, rfl⟩ := exec_cFlag0_next.1 h
      simp [State.flagZero_pktOvf_iff]
    | cFlag1 =>
      obtain ⟨-, -, -, r, -, rfl⟩ := exec_cFlag1_next.1 h
      simp [State.flagOne_pktOvf_iff]
    | _ => simp [exec_pktOvf_eq hrst (by simp) (by simp) h]
  · obtain ⟨-, rfl⟩ := exec_rst_next.1 h
    exact s.toReset_pktOvf

/-! `DecodeReset()` (R174). -/

/-- `DecodeReset()` leaves `DS0` (R39, R174). -/
@[simp] theorem State.decodeState_decodeReset (s : State) : s.decodeReset.decodeState = .initial := rfl

/-- The decode state of `S0` is `DS0` under every configuration (R38, R39). -/
@[simp] theorem State.decodeState_resetFor (c : Config) : (State.resetFor c).decodeState = .initial := rfl

/-- Settles O31: the frame clause is the definition of `DecodeReset()`, the other two name `DS0`. -/
theorem decodeResetWritesTheInitialDecodeState : Obligations.DecodeResetWritesTheInitialDecodeState :=
  fun s => ⟨s.decodeState_decodeReset, rfl, State.decodeState_resetFor s.cfg⟩

end Sys2Proof.Machine
end

section
/-! PROOFS. What one operation of each agent does under a well-formed configuration, as a function of the state:
agent C's selected operation (R190) and agent P's operations (R111 to R113).
-/

namespace Sys2Proof.Machine

/-! Agent C (R190). -/

/-- What agent C's operation does with the bit `b` it popped, by phase and group counter (R190). -/
def State.headEffect (b : Bool) (s : State) : State :=
  match s.phase with
  | .seek => if b then s.countOne else s.endRun
  | .frame => if s.bitCnt.val = 8 then (if b then s.flagOne else s.flagZero) else s.shiftBit b

/-- What agent C's selected operation does: the wait on an empty queue (R130), otherwise the pop and the effect
of the popped bit. -/
def State.consumerEffect (s : State) : State :=
  match s.q with
  | [] => s.takeAnomaly .queueUnderrun
  | b :: rest => { s with q := rest }.headEffect b

theorem State.consumerEffect_nil {s : State} (h : s.q = []) :
    s.consumerEffect = s.takeAnomaly .queueUnderrun := by
  rw [State.consumerEffect, h]

theorem State.consumerEffect_cons {s : State} {b : Bool} {rest : List Bool} (h : s.q = b :: rest) :
    s.consumerEffect = { s with q := rest }.headEffect b := by
  rw [State.consumerEffect, h]

theorem State.headEffect_seek {s : State} {b : Bool} (hp : s.phase = .seek) :
    s.headEffect b = if b then s.countOne else s.endRun := by
  rw [State.headEffect, hp]

theorem State.headEffect_flag {s : State} {b : Bool} (hp : s.phase = .frame) (hl : s.bitCnt.val = 8) :
    s.headEffect b = if b then s.flagOne else s.flagZero := by
  rw [State.headEffect, hp]
  exact if_pos hl

theorem State.headEffect_shift {s : State} {b : Bool} (hp : s.phase = .frame) (hl : s.bitCnt.val ≠ 8) :
    s.headEffect b = s.shiftBit b := by
  rw [State.headEffect, hp]
  exact if_neg hl

/-- R190: the operation that the selector word selects answers a next state. -/
theorem exec_selected {s : State} (hwf : s.cfg.WellFormed) :
    exec (decodeSel s.sel) s = .next s.consumerEffect := by
  cases hq : s.q with
  | nil =>
    rw [State.decodeSel_nil hq, State.consumerEffect_nil hq]
    exact exec_cWait_next.2 ⟨hwf, hq, rfl⟩
  | cons b rest =>
    rw [State.decodeSel_cons hq, State.consumerEffect_cons hq]
    cases hp : s.phase with
    | seek =>
      cases b with
      | true => exact exec_cSeek1_next.2 ⟨hwf, hp, rest, hq, by simp [State.headEffect_seek, hp]⟩
      | false => exact exec_cSeek0_next.2 ⟨hwf, hp, rest, hq, by simp [State.headEffect_seek, hp]⟩
    | frame =>
      by_cases hl : s.bitCnt.val = 8
      · rw [if_neg (by simp), if_pos hl]
        cases b with
        | true => exact exec_cFlag1_next.2 ⟨hwf, hp, hl, rest, hq, by simp [State.headEffect_flag, hp, hl]⟩
        | false => exact exec_cFlag0_next.2 ⟨hwf, hp, hl, rest, hq, by simp [State.headEffect_flag, hp, hl]⟩
      · rw [if_neg (by simp), if_neg hl]
        exact exec_cShift_next.2 ⟨hwf, hp, hl, rest, hq, by simp [State.headEffect_shift, hp, hl]⟩

/-- A step in agent C's turn (R190, R191). -/
theorem step_consumer_turn {s : State} {σ : List Turn} (hwf : s.cfg.WellFormed)
    (hσ : s.sched = .consumer :: σ) :
    step s = .next { s with sched := σ, freeCount := s.freeCount + 1 }.consumerEffect := by
  have hturn : s.turn = .consumer := by rw [State.turn, hσ]; rfl
  have hafter : s.afterFetch = { s with sched := σ, freeCount := s.freeCount + 1 } := by
    simp [State.afterFetch, hturn, hσ]
  have hfetch : s.fetch = .ok (decodeSel s.afterFetch.sel) := by
    rw [State.decodeSel_afterFetch, State.fetch, hturn]
  rw [← hafter]
  exact step_next.2 ⟨_, hfetch, exec_selected hwf⟩

/-! Agent P (R111 to R113). -/

/-- What an operation of agent P does (R111 to R113); no other operation is one of agent P's. -/
def producerEffect (p : Instr) (s : State) : State :=
  match p with
  | .pRise t => s.rise t
  | .pFall t => s.fall t
  | _ => s

/-- Agent P's operations stand behind the guard of the configuration alone. -/
theorem exec_producer {p : Instr} (hp : p.isProducer = true) {s : State} (hwf : s.cfg.WellFormed) :
    exec p s = .next (producerEffect p s) := by
  cases p with
  | pIdle => exact exec_pIdle_next.2 ⟨hwf, rfl⟩
  | pRise t => exact exec_pRise_next.2 ⟨hwf, rfl⟩
  | pFall t => exact exec_pFall_next.2 ⟨hwf, rfl⟩
  | _ => cases hp

/-- An EV word decodes to an operation of agent P (R89). -/
theorem isProducer_of_decode_ev {tsW w : Nat} {p : Instr} (h : decode tsW (.ev w) = .ok p) :
    p.isProducer = true := by
  simp only [decode, decodeEv] at h
  split_ifs at h
  · split at h <;> cases h <;> rfl
  · cases h; rfl

end Sys2Proof.Machine
end

section
/-! PROOFS. The Bit Queue: its two primitives (R51, R52, R54) and their order (R53). -/

namespace Sys2Proof.Machine

theorem State.qPush_of_room {s : State} (b : Bool) (h : s.q.length < s.cfg.qDepth) :
    s.qPush b = { s with q := s.q ++ [b] } := if_neg (by simp [State.qFull_eq_false.2 h])

theorem State.qPush_of_full {s : State} (b : Bool) (h : s.cfg.qDepth ≤ s.q.length) :
    s.qPush b = { s with qOvf := true, pNotes := s.pNotes ++ [.queueOverflow] } :=
  if_pos (State.qFull_eq_true.2 h)

/-- Settles O21: `QPush` on either side of the capacity, `QPop` on either form of the queue, and the three
classifications of P.FALL. -/
theorem queuePrimitives : Obligations.QueuePrimitives :=
  ⟨fun _ b h => State.qPush_of_room b h,
    fun _ b h => State.qPush_of_full b h,
    fun _ h => State.qPop_eq_none.2 h,
    fun _ _ rest h => State.qPop_eq_some.2 ⟨rest, h, rfl⟩,
    fun _ => ⟨rfl, rfl, rfl, rfl⟩,
    fun _ h => State.decodeSel_nil (State.qPop_eq_none.1 h)⟩

/-! One use of the queue, by what the primitive does. -/

theorem State.useQueue_push_room {s : State} {b : Bool} (uses : List QueueUse)
    (h : s.q.length < s.cfg.qDepth) :
    s.useQueue (.push b :: uses) =
      (({ s with q := s.q ++ [b] }.useQueue uses).1,
        b :: ({ s with q := s.q ++ [b] }.useQueue uses).2.1,
        ({ s with q := s.q ++ [b] }.useQueue uses).2.2) := by
  simp [State.useQueue, State.qPush_of_room b h, State.qFull_eq_false.2 h]

theorem State.useQueue_push_full {s : State} {b : Bool} (uses : List QueueUse)
    (h : s.cfg.qDepth ≤ s.q.length) :
    s.useQueue (.push b :: uses) =
      { s with qOvf := true, pNotes := s.pNotes ++ [Anomaly.queueOverflow] }.useQueue uses := by
  simp [State.useQueue, State.qPush_of_full b h, State.qFull_eq_true.2 h]

theorem State.useQueue_pop_nil {s : State} (uses : List QueueUse) (h : s.q = []) :
    s.useQueue (.pop :: uses) = s.useQueue uses := by
  rw [State.useQueue, State.qPop_eq_none.2 h]

theorem State.useQueue_pop_cons {s : State} {b : Bool} {rest : List Bool} (uses : List QueueUse)
    (h : s.q = b :: rest) :
    s.useQueue (.pop :: uses) =
      (({ s with q := rest }.useQueue uses).1,
        ({ s with q := rest }.useQueue uses).2.1,
        b :: ({ s with q := rest }.useQueue uses).2.2) := by
  rw [State.useQueue, State.qPop_eq_some.2 ⟨rest, h, rfl⟩]

/-- Induction over the uses of a queue, by what each primitive does (R51, R52). -/
theorem State.useQueue_induction {motive : List QueueUse → State → Prop} (nil : ∀ s, motive [] s)
    (push_room : ∀ b uses s, s.q.length < s.cfg.qDepth →
      motive uses { s with q := s.q ++ [b] } → motive (.push b :: uses) s)
    (push_full : ∀ b uses s, s.cfg.qDepth ≤ s.q.length →
      motive uses { s with qOvf := true, pNotes := s.pNotes ++ [.queueOverflow] } →
      motive (.push b :: uses) s)
    (pop_nil : ∀ uses s, s.q = [] → motive uses s → motive (.pop :: uses) s)
    (pop_cons : ∀ b rest uses s, s.q = b :: rest →
      motive uses { s with q := rest } → motive (.pop :: uses) s)
    (uses : List QueueUse) (s : State) : motive uses s := by
  induction uses generalizing s with
  | nil => exact nil s
  | cons use uses ih =>
    cases use with
    | push b =>
      rcases Nat.lt_or_ge s.q.length s.cfg.qDepth with hroom | hfull
      · exact push_room b uses s hroom (ih _)
      · exact push_full b uses s hfull (ih _)
    | pop =>
      cases hq : s.q with
      | nil => exact pop_nil uses s hq (ih s)
      | cons b rest => exact pop_cons b rest uses s hq (ih _)

/-- No use of the queue clears `q_ovf` (R24). -/
theorem State.useQueue_qOvf_of_qOvf (uses : List QueueUse) (s : State) :
    s.qOvf = true → (s.useQueue uses).1.qOvf = true := by
  induction uses, s using State.useQueue_induction with
  | nil s => exact id
  | push_room b uses s hroom ih => rw [State.useQueue_push_room uses hroom]; exact ih
  | push_full b uses s hfull ih => rw [State.useQueue_push_full uses hfull]; exact fun _ => ih rfl
  | pop_nil uses s hq ih => rw [State.useQueue_pop_nil uses hq]; exact ih
  | pop_cons b rest uses s hq ih => rw [State.useQueue_pop_cons uses hq]; exact ih

/-- R53: what was queued, then what was accepted, is what was popped, then what is still queued. -/
theorem State.useQueue_order (uses : List QueueUse) (s : State) :
    s.q ++ (s.useQueue uses).2.1 = (s.useQueue uses).2.2 ++ (s.useQueue uses).1.q := by
  induction uses, s using State.useQueue_induction with
  | nil s => exact List.append_nil s.q
  | push_room b uses s hroom ih => rw [State.useQueue_push_room uses hroom, ← ih]; simp
  | push_full b uses s hfull ih => rw [State.useQueue_push_full uses hfull]; exact ih
  | pop_nil uses s hq ih => rw [State.useQueue_pop_nil uses hq]; exact ih
  | pop_cons b rest uses s hq ih =>
    rw [State.useQueue_pop_cons uses hq, hq]
    exact congrArg (b :: ·) ih

/-- `QPush` accepts some of the offered bits, in their order. -/
theorem State.useQueue_accepted_sublist (uses : List QueueUse) (s : State) :
    List.Sublist (s.useQueue uses).2.1 (offeredBits uses) := by
  induction uses, s using State.useQueue_induction with
  | nil s => exact .slnil
  | push_room b uses s hroom ih => rw [State.useQueue_push_room uses hroom]; exact ih.cons_cons b
  | push_full b uses s hfull ih => rw [State.useQueue_push_full uses hfull]; exact ih.cons b
  | pop_nil uses s hq ih => rw [State.useQueue_pop_nil uses hq]; exact ih
  | pop_cons b rest uses s hq ih => rw [State.useQueue_pop_cons uses hq]; exact ih

/-- A dropped bit leaves `q_ovf` set, so with `q_ovf` 0 at the end every offered bit was accepted. -/
theorem State.useQueue_accepted_eq_offered (uses : List QueueUse) (s : State) :
    (s.useQueue uses).1.qOvf = false → (s.useQueue uses).2.1 = offeredBits uses := by
  induction uses, s using State.useQueue_induction with
  | nil s => exact fun _ => rfl
  | push_room b uses s hroom ih =>
    rw [State.useQueue_push_room uses hroom]
    exact fun h => congrArg (b :: ·) (ih h)
  | push_full b uses s hfull _ =>
    rw [State.useQueue_push_full uses hfull, State.useQueue_qOvf_of_qOvf _ _ rfl]
    exact nofun
  | pop_nil uses s hq ih => rw [State.useQueue_pop_nil uses hq]; exact ih
  | pop_cons b rest uses s hq ih => rw [State.useQueue_pop_cons uses hq]; exact ih

/-- Settles O22: order, acceptance and the sticky flag are three inductions over the uses; the last clause follows
from the first and the third. -/
theorem queueIsFifo : Obligations.QueueIsFifo := fun uses s =>
  ⟨s.useQueue_order uses, s.useQueue_accepted_sublist uses, s.useQueue_accepted_eq_offered uses,
    fun hq hovf => ⟨(s.useQueue uses).1.q, by
      rw [← s.useQueue_order uses, hq, s.useQueue_accepted_eq_offered uses hovf, List.nil_append]⟩⟩

end Sys2Proof.Machine
end

section
/-! PROOFS. The data bits of a group: the shift into the accumulator and a run of C.SHIFT (R55, R150). -/

namespace Sys2Proof.Machine

/-- The shift of R150 is the library's shift-in at bit 0. -/
theorem shiftIn_eq_shiftConcat (acc : Byte) (b : Bool) : shiftIn acc b = acc.shiftConcat b := by
  refine BitVec.eq_of_getLsbD_eq fun i hi => ?_
  have happend : (shiftIn acc b).getLsbD i =
      if i < 1 then (BitVec.ofBool b).getLsbD i else (acc.extractLsb' 0 7).getLsbD (i - 1) :=
    BitVec.getLsbD_append
  rw [happend, BitVec.getLsbD_shiftConcat]
  cases i with
  | zero => simp
  | succ i => simp [hi]; omega

theorem shiftIn_toNat (acc : Byte) (b : Bool) : (shiftIn acc b).toNat = (2 * acc.toNat + b.toNat) % 256 := by
  rw [shiftIn_eq_shiftConcat, BitVec.toNat_shiftConcat, Nat.shiftLeft_eq, Nat.mul_comm, pow_one]

/-- The shift drops the bit that arrived first and puts the new one last. -/
theorem byteBits_shiftIn (acc : Byte) (b : Bool) : byteBits (shiftIn acc b) = (byteBits acc).tail ++ [b] := by
  simp [byteBits, shiftIn_eq_shiftConcat, BitVec.getElem_shiftConcat]

theorem nextBitCnt_val {k : Fin 9} (h : k.val < 8) : (nextBitCnt k).val = k.val + 1 := by
  rw [nextBitCnt, dif_pos h]

/-- One turn of agent C within a group (R150). -/
theorem step_dataBit {s : State} {b : Bool} {rest : List Bool} {σ : List Turn} (hwf : s.cfg.WellFormed)
    (hp : s.phase = .frame) (hl : s.bitCnt.val < 8) (hq : s.q = b :: rest) (hσ : s.sched = .consumer :: σ) :
    step s = .next { s with
      q := rest
      acc := shiftIn s.acc b
      bitCnt := nextBitCnt s.bitCnt
      sched := σ
      freeCount := s.freeCount + 1 } := by
  rw [step_consumer_turn hwf hσ, State.consumerEffect_cons (b := b) (rest := rest), State.headEffect_shift]
  · rfl
  · exact hp
  · exact hl.ne
  · exact hq

/-- A run begins with the next state that its first step answers. -/
theorem State.runFor_succ {s t : State} {k : Nat} (h : step s = .next t) : s.runFor (k + 1) = t.runFor k := by
  rw [State.runFor, h]

/-- Turns of agent C within a group: each takes the head bit, shifts it in and counts it (R150). -/
theorem State.runFor_dataBits (bits : List Bool) {s : State} {rest : List Bool} {σ : List Turn}
    (hwf : s.cfg.WellFormed) (hp : s.phase = .frame) (hl : s.bitCnt.val + bits.length < 9)
    (hq : s.q = bits ++ rest) (hσ : s.sched = List.replicate bits.length Turn.consumer ++ σ) :
    s.runFor bits.length = .next { s with
      q := rest
      acc := bits.foldl shiftIn s.acc
      bitCnt := ⟨s.bitCnt.val + bits.length, hl⟩
      sched := σ
      freeCount := s.freeCount + bits.length } := by
  induction bits generalizing s with
  | nil =>
    obtain rfl : s.q = rest := hq
    obtain rfl : s.sched = σ := hσ
    rfl
  | cons b bits ih =>
    have hl8 : s.bitCnt.val < 8 := by simp only [List.length_cons] at hl; omega
    have hnext := nextBitCnt_val hl8
    have hstep := step_dataBit hwf hp hl8 hq hσ
    have hl' : (nextBitCnt s.bitCnt).val + bits.length < 9 := by
      simp only [List.length_cons] at hl
      omega
    refine (State.runFor_succ hstep).trans ((ih ?hwf ?hp hl' ?hq ?hσ).trans ?_)
    case hwf => exact hwf
    case hp => exact hp
    case hq => rfl
    case hσ => rfl
    simp [hnext, Nat.add_assoc, Nat.add_comm 1]

/-- Eight shifts replace every bit of the accumulator, the first bit at bit 7 (R55). -/
theorem byteBits_foldl_shiftIn (acc : Byte) (b₀ b₁ b₂ b₃ b₄ b₅ b₆ b₇ : Bool) :
    byteBits ([b₀, b₁, b₂, b₃, b₄, b₅, b₆, b₇].foldl shiftIn acc) = [b₀, b₁, b₂, b₃, b₄, b₅, b₆, b₇] := by
  simp only [List.foldl, byteBits_shiftIn]
  rfl

/-- The byte of eight bits as a number: what the accumulator held before is gone modulo 256. -/
theorem foldl_shiftIn_toNat (acc : Byte) (b₀ b₁ b₂ b₃ b₄ b₅ b₆ b₇ : Bool) :
    ([b₀, b₁, b₂, b₃, b₄, b₅, b₆, b₇].foldl shiftIn acc).toNat =
      128 * b₀.toNat + 64 * b₁.toNat + 32 * b₂.toNat + 16 * b₃.toNat + 8 * b₄.toNat + 4 * b₅.toNat +
        2 * b₆.toNat + b₇.toNat := by
  have h₀ := b₀.toNat_lt
  have h₁ := b₁.toNat_lt
  have h₂ := b₂.toNat_lt
  have h₃ := b₃.toNat_lt
  have h₄ := b₄.toNat_lt
  have h₅ := b₅.toNat_lt
  have h₆ := b₆.toNat_lt
  have h₇ := b₇.toNat_lt
  simp only [List.foldl, shiftIn_toNat]
  omega

/-- Settles O32: a run of eight C.SHIFT from `bit_cnt` 0, and the eight shifts read off as bits and as a
number. -/
theorem firstDataBitIsBitSeven : Obligations.FirstDataBitIsBitSeven := by
  intro s b₀ b₁ b₂ b₃ b₄ b₅ b₆ b₇ rest σ hwf hp hl hq hσ
  have hrun := State.runFor_dataBits [b₀, b₁, b₂, b₃, b₄, b₅, b₆, b₇] hwf hp (by simp [hl]) hq hσ
  exact ⟨_, hrun, by simp [hl], hp, rfl, rfl, rfl, byteBits_foldl_shiftIn _ _ _ _ _ _ _ _ _,
    foldl_shiftIn_toNat _ _ _ _ _ _ _ _ _⟩

end Sys2Proof.Machine
end

section
/-! PROOFS. The clock cycle and the two orders of its operations (R63). Each agent's effect commutes with the
writes of the other: agent C reads of agent P's writes the head of the queue alone, agent P of agent C's only
whether the queue has room.
-/

namespace Sys2Proof.Machine

/-- A state with agent P's registers taken from `p`, and the given queue (R20). -/
def State.withProducerPart (s p : State) (q : List Bool) : State :=
  { s with lastRise := p.lastRise, riseValid := p.riseValid, qOvf := p.qOvf, pNotes := p.pNotes, q := q }

@[simp] theorem State.withProducerPart_cfg (s p : State) (q : List Bool) : (s.withProducerPart p q).cfg = s.cfg := rfl

@[simp] theorem State.withProducerPart_q (s p : State) (q : List Bool) : (s.withProducerPart p q).q = q := rfl

theorem State.withProducerPart_preambleMet (s p : State) (q : List Bool) :
    (s.withProducerPart p q).preambleMet = s.preambleMet := rfl

theorem State.withProducerPart_pktRoom (s p : State) (q : List Bool) :
    (s.withProducerPart p q).pktRoom = s.pktRoom := rfl

theorem State.commit_eq_withProducerPart (s p c : State) :
    s.commit p c = c.withProducerPart p (c.q ++ p.q.drop s.q.length) := rfl

/-! Agent C under a change of agent P's registers and of the queue. -/

theorem State.endRun_withProducerPart (s p : State) (q : List Bool) :
    (s.withProducerPart p q).endRun = s.endRun.withProducerPart p q := by
  rw [State.endRun, State.endRun, State.withProducerPart_preambleMet]
  split <;> rfl

theorem State.flagZero_withProducerPart (s p : State) (q : List Bool) :
    (s.withProducerPart p q).flagZero = s.flagZero.withProducerPart p q := by
  rw [State.flagZero, State.flagZero, State.withProducerPart_pktRoom]
  split <;> rfl

theorem State.validate_withProducerPart (s p : State) (q : List Bool) (bytes : List Byte) (x : Byte) :
    (s.withProducerPart p q).validate bytes x = (s.validate bytes x).withProducerPart p q := by
  rw [State.validate, State.validate, State.withProducerPart_cfg]
  split <;> rfl

theorem State.flagOne_withProducerPart (s p : State) (q : List Bool) :
    (s.withProducerPart p q).flagOne = s.flagOne.withProducerPart p q := by
  rw [State.flagOne, State.flagOne, State.withProducerPart_pktRoom]
  split
  · exact s.validate_withProducerPart p q _ _
  · rfl

/-- The effect of a popped bit neither reads nor writes the queue and agent P's registers (R60 (e)). -/
theorem State.headEffect_withProducerPart (b : Bool) (s p : State) (q : List Bool) :
    (s.withProducerPart p q).headEffect b = (s.headEffect b).withProducerPart p q := by
  cases hp : s.phase with
  | seek =>
    rw [State.headEffect_seek hp, State.headEffect_seek (s := s.withProducerPart p q) hp]
    cases b with
    | true => rfl
    | false => exact s.endRun_withProducerPart p q
  | frame =>
    by_cases hl : s.bitCnt.val = 8
    · rw [State.headEffect_flag hp hl, State.headEffect_flag (s := s.withProducerPart p q) hp hl]
      cases b with
      | true => exact s.flagOne_withProducerPart p q
      | false => exact s.flagZero_withProducerPart p q
    · rw [State.headEffect_shift hp hl, State.headEffect_shift (s := s.withProducerPart p q) hp hl]
      rfl

theorem State.headEffect_q (b : Bool) (s : State) : (s.headEffect b).q = s.q := by
  have h := congrArg State.q (State.headEffect_withProducerPart b s s s.q)
  exact h

theorem State.consumerEffect_q (s : State) : s.consumerEffect.q = s.q.tail := by
  cases hq : s.q with
  | nil => rw [State.consumerEffect_nil hq]; exact hq
  | cons b rest => rw [State.consumerEffect_cons hq, State.headEffect_q]; rfl

/-- Agent C leaves agent P's registers (R20). -/
theorem State.consumerEffect_withProducerPart (s : State) :
    s.consumerEffect.withProducerPart s s.q.tail = s.consumerEffect := by
  cases hq : s.q with
  | nil => rw [State.consumerEffect_nil hq]; simp [State.withProducerPart, hq, State.takeAnomaly_queueUnderrun]
  | cons b rest =>
    rw [State.consumerEffect_cons hq, ← State.headEffect_withProducerPart]
    rfl

@[simp] theorem State.endRun_cfg (s : State) : s.endRun.cfg = s.cfg := by
  rcases s.endRun_cases with ⟨-, e⟩ | ⟨-, e⟩ <;> rw [e]

@[simp] theorem State.flagZero_cfg (s : State) : s.flagZero.cfg = s.cfg := by
  rcases s.flagZero_cases with ⟨-, e⟩ | ⟨-, e⟩ <;> rw [e] <;> rfl

@[simp] theorem State.flagOne_cfg (s : State) : s.flagOne.cfg = s.cfg := by
  rcases s.flagOne_cases with ⟨-, -, e⟩ | ⟨-, -, e⟩ | ⟨-, e⟩ <;> rw [e] <;> rfl

theorem State.headEffect_cfg (b : Bool) (s : State) : (s.headEffect b).cfg = s.cfg := by
  cases hp : s.phase with
  | seek => rw [State.headEffect_seek hp]; split <;> simp
  | frame =>
    by_cases hl : s.bitCnt.val = 8
    · rw [State.headEffect_flag hp hl]; split <;> simp
    · rw [State.headEffect_shift hp hl, State.shiftBit_cfg]

/-- Agent C does not write the configuration (R33). -/
theorem State.consumerEffect_cfg (s : State) : s.consumerEffect.cfg = s.cfg := by
  cases hq : s.q with
  | nil => rw [State.consumerEffect_nil hq]; rfl
  | cons b rest => rw [State.consumerEffect_cons hq, State.headEffect_cfg]

/-- Where a bit waits, agent C does the same before and after bits join the queue behind it (R63). -/
theorem State.consumerEffect_after_producer {s : State} (hne : s.q ≠ []) (p : State) (bits : List Bool) :
    (s.withProducerPart p (s.q ++ bits)).consumerEffect =
      s.consumerEffect.withProducerPart p (s.consumerEffect.q ++ bits) := by
  obtain ⟨b, rest, hq⟩ := List.exists_cons_of_ne_nil hne
  have hcons : (s.withProducerPart p (s.q ++ bits)).q = b :: (rest ++ bits) := by
    simp [hq]
  rw [State.consumerEffect_cons hcons, s.consumerEffect_q, State.consumerEffect_cons hq,
    ← State.headEffect_withProducerPart, hq]
  rfl

/-! Agent P under a change of everything that is agent C's. -/

/-- Agent P writes its own registers and the tail of the queue (R20). -/
theorem producerEffect_frame (p : Instr) (s : State) :
    producerEffect p s =
      s.withProducerPart (producerEffect p s) (s.q ++ (producerEffect p s).q.drop s.q.length) := by
  cases p with
  | pFall u =>
    rcases s.fall_cases u with ⟨-, e⟩ | ⟨-, b, -, ⟨-, e⟩ | ⟨-, e⟩⟩ | ⟨-, -, e⟩ <;>
      simp [producerEffect, e, State.withProducerPart]
  | _ => simp [producerEffect, State.withProducerPart, State.rise]

theorem State.fall_withProducerPart (u : Nat) {s c : State} {q : List Bool} (hcfg : c.cfg = s.cfg)
    (hs : s.q.length < s.cfg.qDepth) (hq : q.length < s.cfg.qDepth) :
    (c.withProducerPart s q).fall u =
      c.withProducerPart (s.fall u) (q ++ (s.fall u).q.drop s.q.length) := by
  cases hv : s.riseValid with
  | false => simp [State.fall, State.withProducerPart, hv]
  | true =>
    cases hc : classify s.cfg (delta s.cfg (tsOperand s.cfg u) s.lastRise) <;>
      simp [State.fall, State.withProducerPart, hv, hcfg, hc, State.takeClass, State.qPush_of_room, hs, hq,
        State.takeAnomaly_timingNoise]

/-- With room in both queues agent P does the same whatever agent C's registers and the queue hold (R63,
R116). -/
theorem producerEffect_withProducerPart (p : Instr) {s c : State} {q : List Bool} (hcfg : c.cfg = s.cfg)
    (hs : s.q.length < s.cfg.qDepth) (hq : q.length < s.cfg.qDepth) :
    producerEffect p (c.withProducerPart s q) =
      c.withProducerPart (producerEffect p s) (q ++ (producerEffect p s).q.drop s.q.length) := by
  cases p with
  | pFall u => exact State.fall_withProducerPart u hcfg hs hq
  | pRise u => simp [producerEffect, State.withProducerPart, State.rise, hcfg]
  | _ => simp [producerEffect]

/-! The cycle. -/

/-- Under a well-formed configuration the cycle commits the two effects (R63). -/
theorem State.bothAgents_eq_commit {s : State} {p : Instr} (hwf : s.cfg.WellFormed) (hp : p.isProducer = true) :
    s.bothAgents p (decodeSel s.sel) = .next (s.commit (producerEffect p s) s.consumerEffect) := by
  rw [State.bothAgents, exec_producer hp hwf, exec_selected hwf]

theorem producerEffect_cfg (p : Instr) (s : State) : (producerEffect p s).cfg = s.cfg := by
  rw [producerEffect_frame, State.withProducerPart_cfg]

/-- With a bit waiting the cycle is agent P's operation, then agent C's. -/
theorem State.bothAgents_eq_producerFirst {s : State} {p : Instr} (hwf : s.cfg.WellFormed)
    (hp : p.isProducer = true) (hne : s.q ≠ []) :
    s.bothAgents p (decodeSel s.sel) = s.producerFirst p := by
  have hwf' : (producerEffect p s).cfg.WellFormed := by rwa [producerEffect_cfg]
  rw [State.bothAgents_eq_commit hwf hp, State.producerFirst, exec_producer hp hwf]
  simp only [exec_selected hwf']
  rw [State.commit_eq_withProducerPart, ← State.consumerEffect_after_producer hne, ← producerEffect_frame]

/-- With room in the queue the cycle is agent C's operation, then agent P's. -/
theorem State.bothAgents_eq_consumerFirst {s : State} {p : Instr} (hwf : s.cfg.WellFormed)
    (hp : p.isProducer = true) (hroom : s.q.length < s.cfg.qDepth) :
    s.bothAgents p (decodeSel s.sel) = s.consumerFirst p := by
  have hwf' : s.consumerEffect.cfg.WellFormed := by rwa [State.consumerEffect_cfg]
  have htail : s.q.tail.length < s.cfg.qDepth := by simp; omega
  rw [State.bothAgents_eq_commit hwf hp, State.consumerFirst, exec_selected hwf]
  simp only [exec_producer hp hwf']
  rw [State.commit_eq_withProducerPart, s.consumerEffect_q,
    ← producerEffect_withProducerPart p s.consumerEffect_cfg hroom htail, s.consumerEffect_withProducerPart]

/-- Under an ill-formed configuration the cycle and both orders are refused alike (R6). -/
theorem State.bothAgents_illFormed {s : State} (p : Instr) (hwf : ¬ s.cfg.WellFormed) :
    s.bothAgents p (decodeSel s.sel) = s.producerFirst p ∧
      s.bothAgents p (decodeSel s.sel) = s.consumerFirst p := by
  simp only [State.bothAgents, State.producerFirst, State.consumerFirst,
    (exec_illFormedConfig_iff _ s).2 hwf, and_self]

/-- Settles O45: with a bit waiting agent P may go first, with room agent C may; a full queue holds a bit and an
empty one has room, because `Q_DEPTH` is at least 1. -/
theorem clockCycleIsAnInterleaving : Obligations.ClockCycleIsAnInterleaving := by
  intro s p hdec
  have hp := isProducer_of_decode_ev hdec
  have hclock : s.clock false = s.cycleStart.bothAgents p (decodeSel s.cycleStart.sel) := by
    rw [State.clock, if_neg (by decide), hdec]
  rw [hclock]
  by_cases hwf : s.cfg.WellFormed
  · have hdepth : 1 ≤ s.cfg.qDepth := by
      obtain ⟨-, -, -, -, -, hdepth, -⟩ := wellFormed_iff.1 hwf
      exact hdepth
    have hPC : s.q ≠ [] → _ := State.bothAgents_eq_producerFirst (s := s.cycleStart) hwf hp
    have hCP : s.q.length < s.cfg.qDepth → _ := State.bothAgents_eq_consumerFirst (s := s.cycleStart) hwf hp
    refine ⟨fun hfull => hPC ?_, fun hempty => hCP ?_, fun hne hroom => ⟨hPC hne, hCP hroom⟩⟩
    · intro hnil
      simp [hnil] at hfull
      omega
    · simp [hempty]
      omega
  · obtain ⟨hPC, hCP⟩ := State.bothAgents_illFormed (s := s.cycleStart) p hwf
    exact ⟨fun _ => hPC, fun _ => hCP, fun _ _ => ⟨hPC, hCP⟩⟩

end Sys2Proof.Machine
end

section
/-! PROOFS. The decodes by their fields: the EV word of agent P, the selector word of agent C and the choice of a
clock cycle (R94).
-/

namespace Sys2Proof.Machine

/-! The EV word `v ‖ k ‖ t`: the number `n` of the two bits `v k` above a timestamp of `TS_W` bits (R80). -/

theorem evFields_fit {tsW n t : Nat} (hn : n < 4) (ht : t < 2 ^ tsW) : n * 2 ^ tsW + t < 2 ^ (tsW + 2) := by
  rw [Nat.pow_add, Nat.mul_comm n, Nat.add_comm (_ * _)]
  exact Nat.add_mul_lt_mul_of_lt_of_lt ht hn

theorem evValid_fields {tsW t : Nat} (n : Nat) (ht : t < 2 ^ tsW) :
    evValid tsW (n * 2 ^ tsW + t) = n.testBit 1 := by
  simp [evValid, Nat.mul_comm n, Nat.testBit_two_pow_mul_add n ht]

theorem evKind_fields {tsW t : Nat} (n : Nat) (ht : t < 2 ^ tsW) :
    evKind tsW (n * 2 ^ tsW + t) = EdgeKind.ofBit (n.testBit 0) := by
  simp [evKind, Nat.mul_comm n, Nat.testBit_two_pow_mul_add n ht]

theorem evTs_fields {tsW t : Nat} (n : Nat) (ht : t < 2 ^ tsW) : evTs tsW (n * 2 ^ tsW + t) = t := by
  rw [evTs, Nat.mul_add_mod_self_right, Nat.mod_eq_of_lt ht]

/-- R94: the decode of `v ‖ k ‖ t`. -/
theorem decode_ev_fields {tsW n t : Nat} (hn : n < 4) (ht : t < 2 ^ tsW) :
    decode tsW (.ev (n * 2 ^ tsW + t)) =
      .ok (if n.testBit 1 then (if n.testBit 0 then .pRise t else .pFall t) else .pIdle) := by
  rw [decode, decodeEv, if_pos (evFields_fit hn ht), evValid_fields n ht, evKind_fields n ht, evTs_fields n ht]
  cases n.testBit 1 with
  | false => rfl
  | true => cases n.testBit 0 <;> rfl

/-- R94: with `rst = 0` a clock cycle performs the decoded operation of agent P and the selected one of agent C. -/
theorem State.clock_false_of_decode {s : State} {p : Instr} (h : decode s.cfg.tsW (.ev s.evPort) = .ok p) :
    s.clock false = s.cycleStart.bothAgents p (decodeSel s.cycleStart.sel) := by
  rw [State.clock, if_neg (by decide), h]

/-- Settles O2: the EV word by its two upper bits, the selector word row by row, the cycle by `rst`. -/
theorem operationsDecodeByFields : Obligations.OperationsDecodeByFields := by
  refine ⟨fun tsW t ht => ⟨?_, ?_, ?_, ?_⟩, fun _ _ _ => rfl, fun _ _ => rfl, fun _ => rfl, fun _ => rfl,
    fun _ => rfl, fun _ _ => State.clock_false_of_decode⟩
  · simpa using decode_ev_fields (n := 0) (by decide) ht
  · simpa [Nat.testBit_succ] using decode_ev_fields (n := 1) (by decide) ht
  · exact decode_ev_fields (n := 2) (by decide) ht
  · exact decode_ev_fields (n := 3) (by decide) ht

end Sys2Proof.Machine
end

section
/-! PROOFS. The hand-off of a packet and its PKT word: what a clock cycle adds to `out` (R32, R193) and how the
output ports present it (R88).
-/

namespace Sys2Proof.Machine

/-! What agent C adds to `out`: only flag 1 emits (R193). -/

@[simp] theorem State.endRun_out (s : State) : s.endRun.out = s.out := by
  rcases s.endRun_cases with ⟨-, e⟩ | ⟨-, e⟩ <;> rw [e]

@[simp] theorem State.flagZero_out (s : State) : s.flagZero.out = s.out := by
  rcases s.flagZero_cases with ⟨-, e⟩ | ⟨-, e⟩ <;> rw [e] <;> rfl

/-- Flag 1 emits the completed packet, or nothing (R152, R171). -/
theorem State.flagOne_out_cases (s : State) :
    s.flagOne.out = s.out ∨
    (s.pkt.length < s.cfg.pktMaxBytes ∧
      s.flagOne.out = s.out ++ [{ bytes := s.pkt ++ [s.acc], xorOk := decide (s.xorAcc ^^^ s.acc = 0x00#8) }]) := by
  rcases s.flagOne_cases with ⟨hroom, -, e⟩ | ⟨-, -, e⟩ | ⟨-, e⟩ <;> rw [e]
  · exact .inr ⟨hroom, rfl⟩
  · exact .inl rfl
  · exact .inl rfl

/-- From `s` to `t` the output history gains nothing, or one packet of 1 to `PKT_MAX_BYTES` bytes. -/
def State.HandsOffAtMostOne (s t : State) : Prop :=
  t.out = s.out ∨ ∃ p : Packet, t.out = s.out ++ [p] ∧ 1 ≤ p.bytes.length ∧ p.bytes.length ≤ s.cfg.pktMaxBytes

theorem State.headEffect_handsOff (b : Bool) (s : State) : s.HandsOffAtMostOne (s.headEffect b) := by
  cases hp : s.phase with
  | seek =>
    rw [State.headEffect_seek hp]
    cases b with
    | true => exact .inl rfl
    | false => exact .inl s.endRun_out
  | frame =>
    by_cases hl : s.bitCnt.val = 8
    · rw [State.headEffect_flag hp hl]
      cases b with
      | false => exact .inl s.flagZero_out
      | true =>
        rcases s.flagOne_out_cases with e | ⟨hroom, e⟩
        · exact .inl e
        · exact .inr ⟨_, e, by simp, by simpa using hroom⟩
    · rw [State.headEffect_shift hp hl]
      exact .inl rfl

theorem State.consumerEffect_handsOff (s : State) : s.HandsOffAtMostOne s.consumerEffect := by
  cases hq : s.q with
  | nil => rw [State.consumerEffect_nil hq]; exact .inl rfl
  | cons b rest =>
    rw [State.consumerEffect_cons hq]
    exact State.headEffect_handsOff b { s with q := rest }

/-- A clock cycle with `rst = 0` commits the effects of a decoded operation of agent P and of agent C's selected
operation (R63). -/
theorem State.clock_false_next {s t : State} (hwf : s.cfg.WellFormed) (h : s.clock false = .next t) :
    ∃ p, decode s.cfg.tsW (.ev s.evPort) = .ok p ∧
      t = s.cycleStart.commit (producerEffect p s.cycleStart) s.cycleStart.consumerEffect := by
  cases hdec : decode s.cfg.tsW (.ev s.evPort) with
  | error e =>
    rw [State.clock, if_neg (by decide), hdec] at h
    cases h
  | ok p =>
    rw [State.clock_false_of_decode hdec,
      State.bothAgents_eq_commit (s := s.cycleStart) hwf (isProducer_of_decode_ev hdec)] at h
    cases h
    exact ⟨p, rfl, rfl⟩

/-- In a clock cycle with `rst = 0` agent C alone adds to `out` (R32, R63). -/
theorem State.clock_false_handsOff {s t : State} (hwf : s.cfg.WellFormed) (h : s.clock false = .next t) :
    s.HandsOffAtMostOne t := by
  obtain ⟨p, -, rfl⟩ := State.clock_false_next hwf h
  exact s.cycleStart.consumerEffect_handsOff

/-! The PKT word (R88). -/

theorem State.pktPort_of_out_eq {s t : State} (h : t.out = s.out) :
    s.pktPort t = noPktWord s.cfg s.freeCount := by
  simp [State.pktPort, h]

theorem State.pktPort_of_out_append {s t : State} {p : Packet} (h : t.out = s.out ++ [p]) :
    s.pktPort t = pktWord s.cfg s.freeCount p := by
  simp [State.pktPort, h]

theorem laneData_lt (bytes : List Byte) : laneData bytes < 2 ^ (8 * bytes.length) := by
  induction bytes with
  | nil => exact Nat.one_pos
  | cons b rest ih =>
    rw [laneData, List.length_cons, Nat.mul_succ, Nat.add_comm (8 * _), Nat.pow_add]
    exact Nat.add_mul_lt_mul_of_lt_of_lt b.isLt ih

/-- The lane below `pkt_len` at index `i` holds byte `i`, whatever `x` the lanes above hold. -/
theorem laneData_lane (bytes : List Byte) (x i : Nat) (hi : i < bytes.length) :
    (laneData bytes + 2 ^ (8 * bytes.length) * x) / 2 ^ (8 * i) % 2 ^ 8 = bytes[i].toNat := by
  induction bytes generalizing i with
  | nil => cases hi
  | cons b rest ih =>
    have hsplit : laneData (b :: rest) + 2 ^ (8 * (b :: rest).length) * x =
        2 ^ 8 * (laneData rest + 2 ^ (8 * rest.length) * x) + b.toNat := by
      rw [laneData, List.length_cons, Nat.mul_succ, Nat.pow_add]
      ring
    rw [hsplit]
    cases i with
    | zero =>
      rw [Nat.mul_zero, Nat.pow_zero, Nat.div_one, Nat.mul_add_mod, Nat.mod_eq_of_lt b.isLt]
      rfl
    | succ i =>
      rw [Nat.mul_succ, Nat.add_comm (8 * i), Nat.pow_add, ← Nat.div_div_eq_div_mul, Nat.mul_add_div (by decide),
        Nat.div_eq_of_lt b.isLt, Nat.add_zero]
      exact ih i (Nat.lt_of_succ_lt_succ hi)

/-- A packet that fits the buffer fits the port `pkt_data`. -/
theorem pktWord_data_lt {c : Config} {p : Packet} (n : Nat) (h : p.bytes.length ≤ c.pktMaxBytes) :
    (pktWord c n p).data < 2 ^ (8 * c.pktMaxBytes) := by
  have hwidth : 8 * c.pktMaxBytes = 8 * p.bytes.length + 8 * (c.pktMaxBytes - p.bytes.length) := by omega
  rw [hwidth, Nat.pow_add]
  exact Nat.add_mul_lt_mul_of_lt_of_lt (laneData_lt p.bytes) (Nat.mod_lt _ (Nat.two_pow_pos _))

theorem lt_two_pow_lenW {c : Config} {n : Nat} (h : n ≤ c.pktMaxBytes) : n < 2 ^ lenW c :=
  h.trans_lt Nat.lt_log2_self

/-- Settles O37: a cycle hands off nothing or one packet, and the PKT word of a packet that fits the buffer carries
it within the width of each port. -/
theorem pktPortCarriesThePacket : Obligations.PktPortCarriesThePacket := by
  intro s t hinv hclock
  rcases State.clock_false_handsOff hinv.config hclock with hout | ⟨p, hout, hpos, hmax⟩
  · exact .inl ⟨hout, by rw [State.pktPort_of_out_eq hout]; rfl⟩
  · rw [State.pktPort_of_out_append hout]
    exact .inr ⟨p, hout, rfl, rfl, hpos, hmax, lt_two_pow_lenW hmax, pktWord_data_lt _ hmax,
      laneData_lane p.bytes _, rfl⟩

end Sys2Proof.Machine
end

section
/-! PROOFS. The bit classifier of agent P: the two windows (R110), the delta as elapsed ticks (R114), and the effect
of P.IDLE, P.RISE and P.FALL with its frame (R111 to R113).
-/

namespace Sys2Proof.Machine

/-! The windows (R110). -/

theorem classify_eq (c : Config) (d : Nat) :
    classify c d =
      if c.ticksMinOne ≤ d ∧ d ≤ c.ticksMaxOne then .one
      else if c.ticksMinZero ≤ d ∧ d ≤ c.ticksMaxZero then .zero else .invalid := by
  simp [classify, hitOne, hitZero]

theorem classify_eq_one_iff {c : Config} {d : Nat} :
    classify c d = .one ↔ c.ticksMinOne ≤ d ∧ d ≤ c.ticksMaxOne := by
  rw [classify_eq]
  split_ifs with hone hzero
  · exact iff_of_true rfl hone
  · exact iff_of_false nofun hone
  · exact iff_of_false nofun hone

/-- The One window is tried first; that the windows are disjoint (R6 (b)) makes the Zero window exact. -/
theorem classify_eq_zero_iff {c : Config} (hdisj : c.ticksMaxOne < c.ticksMinZero) {d : Nat} :
    classify c d = .zero ↔ c.ticksMinZero ≤ d ∧ d ≤ c.ticksMaxZero := by
  rw [classify_eq]
  split_ifs with hone hzero
  · exact iff_of_false nofun (by omega)
  · exact iff_of_true rfl hzero
  · exact iff_of_false nofun hzero

theorem classify_eq_invalid_iff {c : Config} {d : Nat} :
    classify c d = .invalid ↔
      ¬ (c.ticksMinOne ≤ d ∧ d ≤ c.ticksMaxOne) ∧ ¬ (c.ticksMinZero ≤ d ∧ d ≤ c.ticksMaxZero) := by
  rw [classify_eq]
  split_ifs with hone hzero
  · exact iff_of_false nofun fun h => h.1 hone
  · exact iff_of_false nofun fun h => h.2 hzero
  · exact iff_of_true rfl ⟨hone, hzero⟩

/-- Settles O16: each result by its window; with the windows non-empty and in order, what is in neither lies
below, between or above them. -/
theorem classifierIsTwoWindows : Obligations.ClassifierIsTwoWindows := by
  refine ⟨fun c d hwf => ?_, by decide⟩
  obtain ⟨⟨hone, hzero⟩, hdisj, -⟩ := wellFormed_iff.1 hwf
  refine ⟨classify_eq_one_iff, classify_eq_zero_iff hdisj, classify_eq_invalid_iff.trans ?_⟩
  omega

/-! The delta (R114). -/

/-- The natural-number formula of R8 is the difference over the integers modulo `2^TS_W`. -/
theorem delta_cast (c : Config) (tFall lastRise : Nat) :
    (delta c tFall lastRise : Int) = ((tFall : Int) - (lastRise : Int)) % 2 ^ c.tsW := by
  have hle : lastRise % 2 ^ c.tsW ≤ 2 ^ c.tsW := (Nat.mod_lt _ (Nat.two_pow_pos _)).le
  calc (delta c tFall lastRise : Int)
      = ((tFall : Int) + (2 ^ c.tsW - (lastRise : Int) % 2 ^ c.tsW)) % 2 ^ c.tsW := by
        rw [delta, subMod]
        push_cast [hle]
        rfl
    _ = ((tFall : Int) - (lastRise : Int) % 2 ^ c.tsW + 2 ^ c.tsW) % 2 ^ c.tsW := by congr 1; ring
    _ = ((tFall : Int) - (lastRise : Int)) % 2 ^ c.tsW := by rw [Int.add_emod_right, Int.sub_emod_emod]

theorem delta_eq_of_cast_eq {c : Config} {tFall lastRise d : Nat}
    (h : (d : Int) = ((tFall : Int) - (lastRise : Int)) % 2 ^ c.tsW) : delta c tFall lastRise = d := by
  exact_mod_cast (delta_cast c tFall lastRise).trans h.symm

/-- Two readings of the wrapping counter, less than one turn apart. -/
theorem delta_of_elapsed {c : Config} (start : Nat) {elapsed : Nat} (h : elapsed < 2 ^ c.tsW) :
    delta c ((start + elapsed) % 2 ^ c.tsW) (start % 2 ^ c.tsW) = elapsed := by
  refine delta_eq_of_cast_eq ?_
  push_cast
  rw [← Int.sub_emod, add_sub_cancel_left, Int.emod_eq_of_lt (by positivity) (by exact_mod_cast h)]

/-- Settles O17: the modular difference, from which the elapsed count follows; the example wraps at 32 bits. -/
theorem deltaIsElapsedTicks : Obligations.DeltaIsElapsedTicks :=
  ⟨delta_cast, fun _ start _ h => delta_of_elapsed start h, by decide⟩

/-! The operations of agent P. -/

theorem tsOperand_of_lt {c : Config} {t : Nat} (h : t < 2 ^ c.tsW) : tsOperand c t = t := Nat.mod_eq_of_lt h

/-- R113: with `ev_valid` 0 the word is P.IDLE, whatever the lower bits hold. -/
theorem decode_ev_invalid {tsW w : Nat} (h : w < 2 ^ (tsW + 1)) : decode tsW (.ev w) = .ok .pIdle := by
  have hfits : w < 2 ^ (tsW + 2) := h.trans (Nat.pow_lt_pow_right (by decide) (by omega))
  have hvalid : evValid tsW w = false := Nat.testBit_lt_two_pow h
  simp [decode, decodeEv, hfits, hvalid]

/-- Settles O12: the operation writes nothing, and an EV word without its top bit selects it. -/
theorem pIdleChangesNothing : Obligations.PIdleChangesNothing :=
  ⟨fun _ hwf => exec_pIdle_next.2 ⟨hwf, rfl⟩, fun _ _ => decode_ev_invalid⟩

/-- Settles O13: a timestamp of `TS_W` bits is latched uncut. -/
theorem pRiseLatchesTheTimestamp : Obligations.PRiseLatchesTheTimestamp := fun s t hwf ht =>
  exec_pRise_next.2 ⟨hwf, by rw [State.rise, tsOperand_of_lt ht]⟩

theorem State.fall_of_not_riseValid {s : State} (t : Nat) (hv : s.riseValid = false) : s.fall t = s := if_pos hv

/-- R112: with a rising edge pending, P.FALL uses it up and acts on the class of the delta. -/
theorem State.fall_of_riseValid {s : State} {t : Nat} {r : BitClass} (hv : s.riseValid = true)
    (hr : classify s.cfg (delta s.cfg (tsOperand s.cfg t) s.lastRise) = r) :
    s.fall t = { s with riseValid := false }.takeClass r := by
  rw [State.fall, if_neg (by simp [hv]), hr]

/-- Settles O14: the window that holds the delta names the class, and the class with the room in the queue names
what `QPush` does. -/
theorem pFallClassifiesAndEnqueues : Obligations.PFallClassifiesAndEnqueues := by
  intro s t hwf ht
  refine ⟨fun hv => exec_pFall_next.2 ⟨hwf, (State.fall_of_not_riseValid t hv).symm⟩, fun hv d hd => ?_⟩
  obtain ⟨-, hdisj, -⟩ := wellFormed_iff.1 hwf
  have exec_of_class {r : BitClass} (hr : classify s.cfg d = r) :
      exec (.pFall t) s = .next ({ s with riseValid := false }.takeClass r) := by
    refine exec_pFall_next.2 ⟨hwf, (State.fall_of_riseValid hv ?_).symm⟩
    rw [tsOperand_of_lt ht, delta_eq_of_cast_eq hd, hr]
  refine ⟨fun hmin hmax hroom => ?one, fun hmin hmax hroom => ?zero, fun hwindow hfull => ?full,
    fun hone hzero => ?invalid⟩
  case one =>
    rw [exec_of_class (classify_eq_one_iff.2 ⟨hmin, hmax⟩)]
    exact congrArg _ (State.qPush_of_room true hroom)
  case zero =>
    rw [exec_of_class ((classify_eq_zero_iff hdisj).2 ⟨hmin, hmax⟩)]
    exact congrArg _ (State.qPush_of_room false hroom)
  case full =>
    rcases hwindow with hone | hzero
    · rw [exec_of_class (classify_eq_one_iff.2 hone)]
      exact congrArg _ (State.qPush_of_full true hfull)
    · rw [exec_of_class ((classify_eq_zero_iff hdisj).2 hzero)]
      exact congrArg _ (State.qPush_of_full false hfull)
  case invalid =>
    exact exec_of_class (classify_eq_invalid_iff.2 ⟨hone, hzero⟩)

end Sys2Proof.Machine
end

section
/-! PROOFS. The wait of agent C and the Preamble Detector: C.WAIT (R130), C.SEEK1 with its saturating count (R131,
R133) and C.SEEK0 with its two outcomes (R132).
-/

namespace Sys2Proof.Machine

/-- Settles O24: an empty queue selects C.WAIT in either phase, and QueueUnderrun changes no element. -/
theorem cWaitChangesNothing : Obligations.CWaitChangesNothing := fun s hwf hq =>
  exec_cWait_next.2 ⟨hwf, hq, s.takeAnomaly_queueUnderrun.symm⟩

/-- R131, R133: the count goes up by one below `2^CNT_W − 1` and stays there. -/
theorem State.countOne_eq (s : State) :
    s.countOne =
      { s with oneCount := if s.oneCount < 2 ^ s.cfg.cntW - 1 then s.oneCount + 1 else s.oneCount } := rfl

/-- Settles O25: the operation pops the One and counts it with saturation. -/
theorem cSeek1CountsAOne : Obligations.CSeek1CountsAOne := fun s rest hwf hp hq =>
  exec_cSeek1_next.2 ⟨hwf, hp, rest, hq, (State.countOne_eq { s with q := rest }).symm⟩

/-- R132, hit: the run of ones is long enough. -/
theorem State.endRun_of_hit {s : State} (h : s.cfg.preambleMin ≤ s.oneCount) :
    s.endRun = { s with phase := .frame, oneCount := 0 } := by
  rcases s.endRun_cases with ⟨-, hrun⟩ | ⟨hmiss, -⟩
  · exact hrun
  · exact absurd h hmiss.not_ge

/-- R132, miss: the run of ones is too short. -/
theorem State.endRun_of_miss {s : State} (h : s.oneCount < s.cfg.preambleMin) :
    s.endRun = { s with oneCount := 0, cNotes := s.cNotes ++ [.incompletePreamble] } := by
  rcases s.endRun_cases with ⟨hhit, -⟩ | ⟨-, hrun⟩
  · exact absurd h hhit.not_gt
  · exact hrun

/-- Settles O26: the operation pops the Zero, which ends the run; the count held before decides between hit and
miss, since the pop leaves it as it is. -/
theorem cSeek0HitsOrMisses : Obligations.CSeek0HitsOrMisses := by
  intro s rest hwf hp hq
  constructor
  · intro hhit
    have hrun := State.endRun_of_hit (s := { s with q := rest }) hhit
    exact exec_cSeek0_next.2 ⟨hwf, hp, rest, hq, hrun.symm⟩
  · intro hmiss
    have hrun := State.endRun_of_miss (s := { s with q := rest }) hmiss
    exact exec_cSeek0_next.2 ⟨hwf, hp, rest, hq, hrun.symm⟩

end Sys2Proof.Machine
end

section
/-! PROOFS. The Packet Framer and the validator: C.SHIFT (R150), the flag of a group with room in the packet buffer
and without (R151, R152, R154), and the length filter (R171).
-/

namespace Sys2Proof.Machine

/-! The data bits of a group (R150). -/

/-- The eight bits of a byte determine it (R86). -/
theorem byteBits_injective : Function.Injective byteBits := by
  intro v w h
  simp only [byteBits, List.cons.injEq] at h
  obtain ⟨h₇, h₆, h₅, h₄, h₃, h₂, h₁, h₀, -⟩ := h
  refine BitVec.eq_of_getLsbD_eq fun i hi => ?_
  interval_cases i <;> assumption

/-- Eight shifts of a byte's own bits are that byte, whatever the accumulator held before (R55). -/
theorem foldl_shiftIn_byteBits (acc v : Byte) : (byteBits v).foldl shiftIn acc = v :=
  byteBits_injective (byteBits_foldl_shiftIn acc _ _ _ _ _ _ _ _)

/-- Within a group bit 7 of the accumulator has not been reached yet (R36 (I5), R150). -/
theorem State.Inv.acc_bit_seven {s : State} (h : s.Inv) (hp : s.phase = .frame) (hl : s.bitCnt.val < 8) :
    s.acc.getLsbD 7 = false := by
  have hpow : 2 ^ s.bitCnt.val ≤ 2 ^ 7 := Nat.pow_le_pow_right (by decide) (by omega)
  exact Nat.testBit_lt_two_pow ((h.accHigh hp hl).trans_le hpow)

/-- Settles O28: one shift is `2 acc + b` modulo 256 and one count, I5 bounds the accumulator within a group, and
eight shifts are the byte. -/
theorem cShiftShiftsABitIn : Obligations.CShiftShiftsABitIn := by
  refine ⟨fun s b rest hwf hp hl hq => ?_, foldl_shiftIn_byteBits 0x00#8⟩
  exact ⟨{ s with q := rest }.shiftBit b, exec_cShift_next.2 ⟨hwf, hp, hl.ne, rest, hq, rfl⟩, rfl,
    shiftIn_toNat s.acc b, nextBitCnt_val hl, fun hinv => hinv.acc_bit_seven hp hl⟩

/-! The flag of a group, by the room in the packet buffer and the length of the packet. -/

/-- R151, room for the byte. -/
theorem State.flagZero_of_room {s : State} (h : s.pkt.length < s.cfg.pktMaxBytes) :
    s.flagZero = s.appendByte := by
  rcases s.flagZero_cases with ⟨-, hflag⟩ | ⟨hfull, -⟩
  · exact hflag
  · exact absurd h hfull.not_gt

/-- R151, R154: no room for the byte. -/
theorem State.flagZero_of_full {s : State} (h : s.cfg.pktMaxBytes ≤ s.pkt.length) :
    s.flagZero = s.takeAnomaly .packetOverflow := by
  rcases s.flagZero_cases with ⟨hroom, -⟩ | ⟨-, hflag⟩
  · exact absurd h hroom.not_ge
  · exact hflag

/-- R152, R171: room for the final byte, and the packet is long enough. -/
theorem State.flagOne_of_lengthOk {s : State} (hroom : s.pkt.length < s.cfg.pktMaxBytes)
    (hlen : s.cfg.minPacketLen ≤ s.pkt.length + 1) :
    s.flagOne = (s.emit (s.pkt ++ [s.acc]) (decide (s.xorAcc ^^^ s.acc = 0x00#8))).decodeReset := by
  rcases s.flagOne_cases with ⟨-, -, hflag⟩ | ⟨-, hshort, -⟩ | ⟨hfull, -⟩
  · exact hflag
  · exact absurd hlen hshort.not_ge
  · exact absurd hroom hfull.not_gt

/-- R152, R171: room for the final byte, and the packet is too short. -/
theorem State.flagOne_of_short {s : State} (hroom : s.pkt.length < s.cfg.pktMaxBytes)
    (hlen : s.pkt.length + 1 < s.cfg.minPacketLen) :
    s.flagOne = s.takeAnomaly .shortPacket := by
  rcases s.flagOne_cases with ⟨-, hlong, -⟩ | ⟨-, -, hflag⟩ | ⟨hfull, -⟩
  · exact absurd hlen hlong.not_gt
  · exact hflag
  · exact absurd hroom hfull.not_gt

/-- R152, R154: no room for the final byte, whatever the length of the packet. -/
theorem State.flagOne_of_full {s : State} (h : s.cfg.pktMaxBytes ≤ s.pkt.length) :
    s.flagOne = s.takeAnomaly .packetOverflow := by
  rcases s.flagOne_cases with ⟨hroom, -, -⟩ | ⟨hroom, -, -⟩ | ⟨-, hflag⟩
  · exact absurd h hroom.not_ge
  · exact absurd h hroom.not_ge
  · exact hflag

/-- Settles O29: the room in the buffer, which the pop leaves as it is, decides between the two branches. -/
theorem cFlag0AppendsTheByte : Obligations.CFlag0AppendsTheByte := by
  intro s rest hwf hp hl hq
  have exec_eq {t : State} (ht : { s with q := rest }.flagZero = t) : exec .cFlag0 s = .next t :=
    exec_cFlag0_next.2 ⟨hwf, hp, hl, rest, hq, ht.symm⟩
  exact ⟨fun hroom => exec_eq (State.flagZero_of_room hroom),
    fun hfull => exec_eq (State.flagZero_of_full hfull)⟩

/-- Settles O30: the room in the buffer and the length of the packet, which the pop leaves as they are, decide
between the three branches. -/
theorem cFlag1EndsThePacket : Obligations.CFlag1EndsThePacket := by
  intro s rest hwf hp hl hq
  have exec_eq {t : State} (ht : { s with q := rest }.flagOne = t) : exec .cFlag1 s = .next t :=
    exec_cFlag1_next.2 ⟨hwf, hp, hl, rest, hq, ht.symm⟩
  exact ⟨fun hroom hlen => exec_eq (State.flagOne_of_lengthOk hroom hlen),
    fun hroom hlen => exec_eq (State.flagOne_of_short hroom hlen),
    fun hfull => exec_eq (State.flagOne_of_full hfull)⟩

/-! The capacity of the packet buffer (R154). -/

/-- R154: with the packet buffer full, either flag abandons the frame. -/
theorem State.headEffect_of_full {s : State} (b : Bool) (hp : s.phase = .frame) (hl : s.bitCnt.val = 8)
    (hfull : s.cfg.pktMaxBytes ≤ s.pkt.length) : s.headEffect b = s.takeAnomaly .packetOverflow := by
  rw [State.headEffect_flag hp hl]
  cases b with
  | true => exact State.flagOne_of_full hfull
  | false => exact State.flagZero_of_full hfull

/-- R152, R171: flag 1 hands off a packet that fits the buffer and is long enough. -/
theorem State.headEffect_of_lengthOk {s : State} (hp : s.phase = .frame) (hl : s.bitCnt.val = 8)
    (hroom : s.pkt.length < s.cfg.pktMaxBytes) (hlen : s.cfg.minPacketLen ≤ s.pkt.length + 1) :
    s.headEffect true =
      (s.emit (s.pkt ++ [s.acc]) (decide (s.xorAcc ^^^ s.acc = 0x00#8))).decodeReset := by
  rw [State.headEffect_flag hp hl, if_pos rfl, State.flagOne_of_lengthOk hroom hlen]

/-- R190: in phase SEEK agent C waits or seeks. -/
theorem State.decodeSel_of_seek {s : State} (hp : s.phase = .seek) :
    decodeSel s.sel = .cWait ∨ decodeSel s.sel = .cSeek1 ∨ decodeSel s.sel = .cSeek0 := by
  cases hq : s.q with
  | nil => exact .inl (State.decodeSel_nil hq)
  | cons b rest =>
    cases b with
    | true => exact .inr (.inl (State.selects_cSeek1.2 ⟨hp, rest, hq⟩))
    | false => exact .inr (.inr (State.selects_cSeek0.2 ⟨hp, rest, hq⟩))

/-- Settles O33: on a full buffer both flags abandon the frame and leave phase SEEK; one byte below it flag 1 emits,
since R6 (e) puts `MIN_PACKET_LEN` at `PKT_MAX_BYTES` or less. -/
theorem packetBufferOverflow : Obligations.PacketBufferOverflow := by
  intro s b rest hwf hp hl hq
  refine ⟨{ s with q := rest }.headEffect b, ?exec, fun hfull => ?full, fun hroom hb => ?exact⟩
  case exec => rw [exec_selected hwf, State.consumerEffect_cons hq]
  case full =>
    rw [State.headEffect_of_full (s := { s with q := rest }) b hp hl hfull.ge]
    exact ⟨rfl, rfl, rfl, rfl, State.decodeSel_of_seek rfl⟩
  case exact =>
    obtain ⟨-, -, -, -, hmin, -, -⟩ := wellFormed_iff.1 hwf
    rw [hb, State.headEffect_of_lengthOk (s := { s with q := rest }) hp hl (Nat.lt_of_succ_le hroom.le)
      (hmin.trans hroom.ge)]
    exact ⟨rfl, _, rfl, rfl⟩

end Sys2Proof.Machine
end

section
/-! PROOFS. The packet validator's sideband `xor_ok` (R172): what it says of the emitted bytes, and that it gates
nothing.
-/

namespace Sys2Proof.Machine

/-! What `xor_ok` says of a packet. -/

theorem xorBytes_concat (bytes : List Byte) (v : Byte) : xorBytes (bytes ++ [v]) = xorBytes bytes ^^^ v :=
  List.foldl_concat _ _ _ _

/-- R172, the two readings of the check: a packet sums to zero exactly when its last byte is the exclusive-or of
those before it. -/
theorem xorBytes_concat_eq_zero_iff (bytes : List Byte) (v : Byte) :
    xorBytes (bytes ++ [v]) = 0x00#8 ↔
      (bytes ++ [v]).getLast? = some (xorBytes (bytes ++ [v]).dropLast) := by
  rw [xorBytes_concat, BitVec.xor_eq_zero_iff, List.getLast?_concat, List.dropLast_concat, Option.some_inj, eq_comm]

/-- R36 (I6): the sum the validator tests is that of the packet it tests. -/
theorem State.Inv.xorBytes_concat_acc {s : State} (h : s.Inv) :
    xorBytes (s.pkt ++ [s.acc]) = s.xorAcc ^^^ s.acc := by
  rw [xorBytes_concat, h.xorAccIs]

/-! What `xor_acc` has no part in. -/

/-- The states differ at most in the sideband of the packets emitted. -/
def State.SameButXorOk (s t : State) : Prop :=
  s.out.map Packet.bytes = t.out.map Packet.bytes ∧ s = { t with out := s.out }

/-- R152, R171, R172: the room in the buffer and the length of the packet name the branch, and each branch resets
`xor_acc`; only the emitted sideband has read it. -/
theorem State.flagOne_xorAcc_sameButXorOk (s : State) (x : Byte) :
    { s with xorAcc := x }.flagOne.SameButXorOk s.flagOne := by
  rcases s.flagOne_cases with ⟨hroom, hlen, hflag⟩ | ⟨hroom, hshort, hflag⟩ | ⟨hfull, hflag⟩
  · rw [hflag, State.flagOne_of_lengthOk (s := { s with xorAcc := x }) hroom hlen]
    exact ⟨by simp, rfl⟩
  · rw [hflag, State.flagOne_of_short (s := { s with xorAcc := x }) hroom hshort]
    exact ⟨rfl, rfl⟩
  · rw [hflag, State.flagOne_of_full (s := { s with xorAcc := x }) hfull]
    exact ⟨rfl, rfl⟩

/-- Settles O35: the packet that flag 1 emits holds the bytes summed in `xor_acc` and the final one, and the
selection of the operation reads `xor_acc` no more than its branches do. -/
theorem xorOkIsAdvisory : Obligations.XorOkIsAdvisory := by
  intro s t hinv hexec
  obtain ⟨hwf, hp, hl, rest, hq, rfl⟩ := exec_cFlag1_next.1 hexec
  refine ⟨?sideband, fun x => ?advisory⟩
  case sideband =>
    rcases { s with q := rest }.flagOne_out_cases with hout | ⟨-, hout⟩
    · exact .inl hout
    · have hxor : decide (s.xorAcc ^^^ s.acc = 0x00#8) = true ↔ xorBytes (s.pkt ++ [s.acc]) = 0x00#8 := by
        rw [decide_eq_true_iff, hinv.xorBytes_concat_acc]
      exact .inr ⟨_, hout, hxor, hxor.trans (xorBytes_concat_eq_zero_iff s.pkt s.acc)⟩
  case advisory =>
    exact ⟨_, exec_cFlag1_next.2 ⟨hwf, hp, hl, rest, hq, rfl⟩,
      { s with q := rest }.flagOne_xorAcc_sameButXorOk x⟩

end Sys2Proof.Machine
end

section
/-! PROOFS. The dispatch of agent C (R190): the operation that the queue, the phase and the group counter select, and
that it takes the head bit alone. What stands behind the head is neither read nor written.
-/

namespace Sys2Proof.Machine

/-- R6: an operation answers a next state under a well-formed configuration only. -/
theorem wellFormed_of_exec_next {i : Instr} {s t : State} (h : exec i s = .next t) : s.cfg.WellFormed := by
  by_contra hwf
  rw [(exec_illFormedConfig_iff i s).2 hwf] at h
  cases h

/-- The group counter holds at most 8 (R26), so below 8 and at 8 are all its cases. -/
theorem State.bitCnt_lt_iff {s : State} : s.bitCnt.val < 8 ↔ s.bitCnt.val ≠ 8 :=
  ⟨Nat.ne_of_lt, fun h => Nat.lt_of_le_of_ne s.bitCnt.is_le h⟩

/-- R190, the selection with `bit_cnt < 8` written as the rule writes it. -/
theorem State.decodeSel_cons_lt {s : State} {b : Bool} {rest : List Bool} (h : s.q = b :: rest) :
    decodeSel s.sel =
      if s.phase = .seek then (if b = true then .cSeek1 else .cSeek0)
      else if s.bitCnt.val < 8 then .cShift b
      else (if b = false then .cFlag0 else .cFlag1) := by
  rw [State.decodeSel_cons h]
  simp only [State.bitCnt_lt_iff, ite_not]
  cases b <;> rfl

/-- R190: of the queue, the selection reads the head bit only. -/
theorem State.decodeSel_with_tail {s : State} {b : Bool} {rest : List Bool} (h : s.q = b :: rest)
    (rest' : List Bool) : decodeSel { s with q := b :: rest' }.sel = decodeSel s.sel := by
  rw [State.decodeSel_cons h, State.decodeSel_cons (s := { s with q := b :: rest' }) rfl]

/-- The effect of a popped bit does not touch the queue that the pop left. -/
theorem State.headEffect_with_q (b : Bool) (s : State) (q : List Bool) :
    { s with q := q }.headEffect b = { s.headEffect b with q := q } := by
  have hown : s.headEffect b = (s.headEffect b).withProducerPart s s.q :=
    State.headEffect_withProducerPart b s s s.q
  calc { s with q := q }.headEffect b
      = (s.headEffect b).withProducerPart s q := State.headEffect_withProducerPart b s s q
    _ = { (s.headEffect b).withProducerPart s s.q with q := q } := rfl
    _ = { s.headEffect b with q := q } := by rw [← hown]

/-- R190: with other bits behind the same head, agent C does the same but for those bits, which are left. -/
theorem State.consumerEffect_with_tail {s : State} {b : Bool} {rest : List Bool} (h : s.q = b :: rest)
    (rest' : List Bool) : { s with q := b :: rest' }.consumerEffect = { s.consumerEffect with q := rest' } := by
  rw [State.consumerEffect_cons h, State.consumerEffect_cons (s := { s with q := b :: rest' }) rfl,
    State.headEffect_with_q b s rest, State.headEffect_with_q b s rest']

/-- Settles O6: the selected operation is `State.consumerEffect`, which pops the head bit and reads no further; an
operation that answers at all has a well-formed configuration, which the bits behind the head do not change. -/
theorem consumerDispatch : Obligations.ConsumerDispatch := by
  refine fun s => ⟨State.decodeSel_nil, fun _ _ => State.decodeSel_cons_lt,
    fun hwf => ⟨_, exec_selected hwf, s.consumerEffect_q⟩, fun b rest rest' t hq hexec => ?_⟩
  have hwf : s.cfg.WellFormed := wellFormed_of_exec_next hexec
  obtain rfl : s.consumerEffect = t := by
    rw [exec_selected hwf] at hexec
    injection hexec
  have hsel := State.decodeSel_with_tail hq rest'
  refine ⟨hsel, ?_⟩
  rw [← hsel, exec_selected (s := { s with q := b :: rest' }) hwf, State.consumerEffect_with_tail hq]

end Sys2Proof.Machine
end

section
/-! PROOFS. The timing noise of agent P (A1): an Invalid delta uses up the rising edge and is noted, and an orphan is
not even noted (R211).
-/

namespace Sys2Proof.Machine

/-- R211: with a rising edge pending, an Invalid delta clears `rise_valid`, is noted, and nothing more. -/
theorem State.fall_of_invalid {s : State} {t : Nat} (hv : s.riseValid = true)
    (hinvalid : classify s.cfg (delta s.cfg (tsOperand s.cfg t) s.lastRise) = .invalid) :
    s.fall t = { s with riseValid := false, pNotes := s.pNotes ++ [.timingNoise] } :=
  (State.fall_of_riseValid hv hinvalid).trans (State.takeAnomaly_timingNoise _)

/-- Settles O18: a timestamp of `TS_W` bits is classified uncut, and the class Invalid pushes nothing; the orphan
is dropped before its delta is taken. -/
theorem noiseNeverReachesTheQueue : Obligations.NoiseNeverReachesTheQueue := by
  refine fun s t hwf ht => ⟨fun hv hinvalid => ?invalid, fun hv => ?orphan⟩
  case invalid =>
    have hclass : classify s.cfg (delta s.cfg (tsOperand s.cfg t) s.lastRise) = .invalid := by
      rw [tsOperand_of_lt ht, hinvalid]
    exact exec_pFall_next.2 ⟨hwf, (State.fall_of_invalid hv hclass).symm⟩
  case orphan => exact exec_pFall_next.2 ⟨hwf, (State.fall_of_not_riseValid t hv).symm⟩

end Sys2Proof.Machine
end

section
/-! PROOFS. Reset (R240): RST as an operation, and the clock cycle with `rst = 1` (R218 (a)). -/

namespace Sys2Proof.Machine

/-- R218 (a): RST acts on the state from which the presented event has been taken, so the event is lost. -/
theorem State.clock_true (s : State) : s.clock true = exec .rst s.cycleStart := if_pos rfl

/-- R88, R173: where the history of emitted packets is empty afterwards, the cycle handed nothing off. -/
theorem State.pktPort_of_out_nil {s t : State} (h : t.out = []) :
    s.pktPort t = noPktWord s.cfg s.freeCount := by
  rw [State.pktPort, h, List.drop_nil]

/-- Settles O10: both answer `State.toReset`, the cycle from `State.cycleStart`; the width of `last_rise` is that
of a remainder by `2 ^ TS_W`, and an empty `out` is a PKT word without a hand-off. -/
theorem rstPutsTheResetState : Obligations.RstPutsTheResetState := by
  refine fun s hwf => ⟨⟨s.toReset, exec_rst_next.2 ⟨hwf, rfl⟩, ?operation⟩,
    ⟨s.cycleStart.toReset, s.clock_true.trans (exec_rst_next.2 ⟨hwf, rfl⟩), ?cycle⟩⟩
  case operation => simp [Nat.mod_lt]
  case cycle =>
    have hport : s.pktPort s.cycleStart.toReset = noPktWord s.cfg s.freeCount :=
      State.pktPort_of_out_nil s.cycleStart.toReset_out
    simp [Nat.mod_lt, hport, noPktWord]

end Sys2Proof.Machine
end

section
/-! PROOFS. The encoder against the decoder, and which EV words the decoder takes (R80, R84, R89). -/

namespace Sys2Proof.Machine

theorem decode_evWord_rising {tsW t : Nat} (h : t < 2 ^ tsW) :
    decode tsW (.ev (evWord tsW .rising t)) = .ok (.pRise t) := decode_ev_fields (n := 3) (by decide) h

theorem decode_evWord_falling {tsW t : Nat} (h : t < 2 ^ tsW) :
    decode tsW (.ev (evWord tsW .falling t)) = .ok (.pFall t) := decode_ev_fields (n := 2) (by decide) h

/-- Settles O1: an EV word decodes by its two upper bits, the words of the other formats by evaluation. -/
theorem decodeOfEncodeIsIdentity : Obligations.DecodeOfEncodeIsIdentity := by
  intro tsW i hi
  cases i with
  | pIdle => exact decode_ev_invalid (Nat.two_pow_pos _)
  | pRise t => exact decode_evWord_rising (of_decide_eq_true hi)
  | pFall t => exact decode_evWord_falling (of_decide_eq_true hi)
  | cShift b => cases b <;> rfl
  | rst | cWait | cSeek1 | cSeek0 | cFlag0 | cFlag1 => rfl

/-- A word that fits the port is its two upper bits above its timestamp (R80). -/
theorem decode_ev_of_fits {tsW w : Nat} (h : w < 2 ^ (tsW + 2)) :
    ∃ i, decode tsW (.ev w) = .ok i ∧ i.wellFormed tsW = true := by
  have hn : w / 2 ^ tsW < 4 := Nat.div_lt_of_lt_mul (by rwa [Nat.pow_add] at h)
  have ht : w % 2 ^ tsW < 2 ^ tsW := Nat.mod_lt _ (Nat.two_pow_pos _)
  refine ⟨_, (congrArg (fun w => decode tsW (.ev w)) (Nat.div_add_mod' w (2 ^ tsW)).symm).trans
    (decode_ev_fields hn ht), ?_⟩
  split_ifs <;> simp [Instr.wellFormed, ht]

theorem decode_ev_tooWide {tsW w : Nat} (h : 2 ^ (tsW + 2) ≤ w) : decode tsW (.ev w) = .error .evTooWide :=
  if_neg h.not_gt

/-- Settles O3: the decoder's bound is the port's width, and below it the two upper bits name the operation. -/
theorem evWordsDecodeExactlyWhenTheyFit : Obligations.EvWordsDecodeExactlyWhenTheyFit := by
  refine fun tsW w => ⟨fun h => ?_, decode_ev_tooWide⟩
  obtain ⟨i, hdec, hwf⟩ := decode_ev_of_fits h
  exact ⟨i, hdec, isProducer_of_decode_ev hdec, hwf⟩

/-- Settles O4: the eleven words are concrete. -/
theorem wordsOfTheSpecDecode : Obligations.WordsOfTheSpecDecode := by
  unfold Obligations.WordsOfTheSpecDecode
  decide

end Sys2Proof.Machine
end

section
/-! PROOFS. What a step and a clock cycle do, as functions of the state: RST, the effect of agent P's decoded
operation, the effect of agent C's selected one (R63, R190, R191).
-/

namespace Sys2Proof.Machine

/-! The step, by whose turn it is. -/

theorem step_of_reset {s : State} (hwf : s.cfg.WellFormed) (hturn : s.turn = .reset) :
    step s = .next s.afterFetch.toReset := by
  have hfetch : s.fetch = .ok .rst := by rw [State.fetch, hturn]; rfl
  exact step_next.2 ⟨_, hfetch, exec_rst_next.2 ⟨hwf, rfl⟩⟩

theorem step_of_producer {s : State} {p : Instr} (hwf : s.cfg.WellFormed) (hturn : s.turn = .producer)
    (hdec : decode s.cfg.tsW (.ev s.evPort) = .ok p) : step s = .next (producerEffect p s.afterFetch) := by
  have hfetch : s.fetch = .ok p := by rw [State.fetch, hturn]; exact hdec
  exact step_next.2 ⟨p, hfetch, exec_producer (s := s.afterFetch) (isProducer_of_decode_ev hdec) hwf⟩

theorem step_of_consumer {s : State} (hwf : s.cfg.WellFormed) (hturn : s.turn = .consumer) :
    step s = .next s.afterFetch.consumerEffect := by
  have hfetch : s.fetch = .ok (decodeSel s.afterFetch.sel) := by
    rw [State.decodeSel_afterFetch, State.fetch, hturn]
  exact step_next.2 ⟨_, hfetch, exec_selected (s := s.afterFetch) hwf⟩

/-- What a step that answers did (R191). -/
theorem step_cases {s t : State} (h : step s = .next t) :
    s.cfg.WellFormed ∧
    ((s.turn = .reset ∧ t = s.afterFetch.toReset) ∨
     (s.turn = .producer ∧ ∃ p, decode s.cfg.tsW (.ev s.evPort) = .ok p ∧ t = producerEffect p s.afterFetch) ∨
     (s.turn = .consumer ∧ t = s.afterFetch.consumerEffect)) := by
  obtain ⟨i, hfetch, hexec⟩ := step_next.1 h
  have hwf : s.cfg.WellFormed := wellFormed_of_exec_next (s := s.afterFetch) hexec
  refine ⟨hwf, ?_⟩
  rcases s.fetch_cases with ⟨hturn, -⟩ | ⟨hturn, hdec⟩ | ⟨hturn, -⟩
  · rw [step_of_reset hwf hturn] at h
    cases h
    exact .inl ⟨hturn, rfl⟩
  · have hdec : decode s.cfg.tsW (.ev s.evPort) = .ok i := hdec.symm.trans hfetch
    rw [step_of_producer hwf hturn hdec] at h
    cases h
    exact .inr (.inl ⟨hturn, i, hdec, rfl⟩)
  · rw [step_of_consumer hwf hturn] at h
    cases h
    exact .inr (.inr ⟨hturn, rfl⟩)

/-! The clock cycle as two effects in turn. -/

/-- What a cycle with `rst = 0` does, for agent P's operation `p`: on an empty queue agent C goes first, otherwise
agent P may (R63). -/
def State.cycleEffect (p : Instr) (s : State) : State :=
  if s.q = [] then producerEffect p s.cycleStart.consumerEffect
  else (producerEffect p s.cycleStart).consumerEffect

theorem qDepth_pos {c : Config} (hwf : c.WellFormed) : 1 ≤ c.qDepth := by
  obtain ⟨-, -, -, -, -, hdepth, -⟩ := wellFormed_iff.1 hwf
  exact hdepth

theorem State.clock_false_eq {s : State} {p : Instr} (hwf : s.cfg.WellFormed)
    (hdec : decode s.cfg.tsW (.ev s.evPort) = .ok p) : s.clock false = .next (s.cycleEffect p) := by
  have hp := isProducer_of_decode_ev hdec
  rw [State.clock_false_of_decode hdec, State.cycleEffect]
  split_ifs with hq
  · have hwf' : s.cycleStart.consumerEffect.cfg.WellFormed := by rwa [State.consumerEffect_cfg]
    have hroom : s.cycleStart.q.length < s.cycleStart.cfg.qDepth := by
      rw [State.cycleStart_q, hq]
      exact qDepth_pos hwf
    rw [State.bothAgents_eq_consumerFirst (s := s.cycleStart) hwf hp hroom, State.consumerFirst,
      exec_selected (s := s.cycleStart) hwf]
    exact exec_producer hp hwf'
  · have hwf' : (producerEffect p s.cycleStart).cfg.WellFormed := by rwa [producerEffect_cfg]
    rw [State.bothAgents_eq_producerFirst (s := s.cycleStart) hwf hp hq, State.producerFirst,
      exec_producer (s := s.cycleStart) hp hwf]
    exact exec_selected hwf'

/-- What a cycle with `rst = 0` that answers did. -/
theorem State.clock_false_cases {s t : State} (h : s.clock false = .next t) :
    s.cfg.WellFormed ∧ ∃ p, decode s.cfg.tsW (.ev s.evPort) = .ok p ∧ t = s.cycleEffect p := by
  cases hdec : decode s.cfg.tsW (.ev s.evPort) with
  | error e =>
    rw [State.clock, if_neg (by decide), hdec] at h
    cases h
  | ok p =>
    have hwf : s.cfg.WellFormed := by
      by_contra hill
      rw [State.clock_false_of_decode hdec, State.bothAgents, (exec_illFormedConfig_iff p s.cycleStart).2 hill] at h
      cases h
    rw [State.clock_false_eq hwf hdec] at h
    cases h
    exact ⟨hwf, p, rfl, rfl⟩

end Sys2Proof.Machine
end

section
/-! PROOFS. The invariants of R36: the reset state meets them, and every effect of an operation keeps them; so do a
step, a clock cycle and a run.
-/

namespace Sys2Proof.Machine

/-! Reset. -/

theorem State.inv_resetFor {c : Config} (hwf : c.WellFormed) : (State.resetFor c).Inv where
  config := hwf
  lastRiseWidth := Nat.two_pow_pos _
  oneCountWidth := Nat.two_pow_pos _
  eventsFit := nofun
  storage := ⟨Nat.zero_le _, Nat.zero_le _⟩
  seekEmpty _ := ⟨rfl, rfl, rfl, rfl⟩
  frameCount := nofun
  accHigh := nofun
  xorAccIs := rfl
  outSound := nofun

/-- Settles O11: every element is at a constant that meets its clause. -/
theorem resetStateMeetsTheInvariants : Obligations.ResetStateMeetsTheInvariants :=
  ⟨fun _ => State.inv_resetFor, rfl, by decide,
    fun c => ⟨State.decodeState_resetFor c, ⟨rfl, rfl⟩, ⟨rfl, rfl⟩, rfl, rfl⟩⟩

section
variable {s : State}

/-- R240: every element is at its reset value, and the free value of `last_rise` has `TS_W` bits. -/
theorem State.Inv.toReset (h : s.Inv) : s.toReset.Inv :=
  { State.inv_resetFor h.config with
    lastRiseWidth := Nat.mod_lt _ (Nat.two_pow_pos _)
    eventsFit := h.eventsFit }

/-! What taking a turn or starting a cycle uses up. -/

theorem State.Inv.afterFetch (h : s.Inv) : s.afterFetch.Inv := by
  refine { h with eventsFit := fun w hw => h.eventsFit w ?_ }
  rw [State.afterFetch_events] at hw
  split_ifs at hw
  · exact List.mem_of_mem_tail hw
  · exact hw

theorem State.Inv.cycleStart (h : s.Inv) : s.cycleStart.Inv :=
  { h with eventsFit := fun w hw => h.eventsFit w (List.mem_of_mem_tail hw) }

/-! Agent P. -/

theorem State.Inv.rise (h : s.Inv) (u : Nat) : (s.rise u).Inv :=
  { h with lastRiseWidth := Nat.mod_lt _ (Nat.two_pow_pos _) }

/-- P.FALL touches `rise_valid`, the flag, the notes and the tail of the queue, which it lengthens only below
`Q_DEPTH` (R51). -/
theorem State.Inv.fall (h : s.Inv) (u : Nat) : (s.fall u).Inv := by
  rcases s.fall_cases u with ⟨-, e⟩ | ⟨-, b, -, ⟨hroom, e⟩ | ⟨-, e⟩⟩ | ⟨-, -, e⟩ <;> rw [e]
  · exact h
  · exact { h with storage := ⟨by simpa using hroom, h.storage.2⟩ }
  · exact { h with }
  · exact { h with }

theorem State.Inv.producer (h : s.Inv) (p : Instr) : (producerEffect p s).Inv := by
  cases p with
  | pRise u => exact h.rise u
  | pFall u => exact h.fall u
  | _ => exact h

/-! Agent C. -/

theorem State.Inv.pop {b : Bool} {rest : List Bool} (h : s.Inv) (hq : s.q = b :: rest) :
    { s with q := rest }.Inv := by
  have hdepth : (b :: rest).length ≤ s.cfg.qDepth := hq ▸ h.storage.1
  exact { h with storage := ⟨(Nat.le_succ _).trans hdepth, h.storage.2⟩ }

theorem State.Inv.decodeReset (h : s.Inv) : s.decodeReset.Inv :=
  { h with
    oneCountWidth := Nat.two_pow_pos _
    storage := Memory.wf_decodeReset h.storage
    seekEmpty := fun _ => ⟨rfl, rfl, rfl, rfl⟩
    frameCount := nofun
    accHigh := nofun
    xorAccIs := rfl }

theorem State.Inv.takeAnomaly (h : s.Inv) (a : Anomaly) : (s.takeAnomaly a).Inv := by
  cases a with
  | timingNoise | queueUnderrun | queueOverflow => exact { h with }
  | incompletePreamble => exact { h with oneCountWidth := Nat.two_pow_pos _, frameCount := fun _ => rfl }
  | shortPacket | packetOverflow => exact { h.decodeReset with }

theorem satInc_lt {w v : Nat} (h : v < 2 ^ w) : satInc w v < 2 ^ w := by
  unfold satInc
  split <;> omega

theorem State.Inv.countOne (h : s.Inv) (hp : s.phase = .seek) : s.countOne.Inv :=
  { h with
    oneCountWidth := satInc_lt h.oneCountWidth
    frameCount := fun hf => absurd (hp.symm.trans hf) (by decide) }

/-- A hit begins the first group with the cleared accumulator of phase SEEK (I3, I5). -/
theorem State.Inv.endRun (h : s.Inv) (hp : s.phase = .seek) : s.endRun.Inv := by
  obtain ⟨hbit, hacc, -, -⟩ := h.seekEmpty hp
  rcases s.endRun_cases with ⟨-, e⟩ | ⟨-, e⟩ <;> rw [e]
  · exact { h with
      oneCountWidth := Nat.two_pow_pos _
      seekEmpty := nofun
      frameCount := fun _ => rfl
      accHigh := fun _ _ => by simp [hbit, hacc] }
  · exact h.takeAnomaly .incompletePreamble

/-- One more bit below the counted ones: `acc` stays within `bit_cnt` bits (I5). -/
theorem State.Inv.shiftBit (h : s.Inv) (b : Bool) (hp : s.phase = .frame) (hl : s.bitCnt.val ≠ 8) :
    (s.shiftBit b).Inv := by
  have hl8 : s.bitCnt.val < 8 := State.bitCnt_lt_iff.2 hl
  have hacc := h.accHigh hp hl8
  have hb := b.toNat_lt
  refine { h with
    seekEmpty := fun hs => absurd (hp.symm.trans hs) (by decide)
    accHigh := fun _ _ => ?_ }
  rw [State.shiftBit_acc, State.shiftBit_bitCnt, shiftIn_toNat, nextBitCnt_val hl8, Nat.pow_succ]
  exact (Nat.mod_le _ _).trans_lt (by omega)

/-- The byte joins `pkt` and `xor_acc` alike (I6), and there is room for it (I7). -/
theorem State.Inv.appendByte (h : s.Inv) (hp : s.phase = .frame) (hroom : s.pkt.length < s.cfg.pktMaxBytes) :
    s.appendByte.Inv :=
  { h with
    storage := ⟨h.storage.1, by simpa using hroom⟩
    seekEmpty := fun hs => absurd (hp.symm.trans hs) (by decide)
    accHigh := fun _ _ => Nat.one_pos
    xorAccIs := by rw [State.appendByte_xorAcc, State.appendByte_pkt, h.xorBytes_concat_acc] }

theorem State.Inv.flagZero (h : s.Inv) (hp : s.phase = .frame) : s.flagZero.Inv := by
  rcases s.flagZero_cases with ⟨hroom, e⟩ | ⟨-, e⟩ <;> rw [e]
  · exact h.appendByte hp hroom
  · exact h.takeAnomaly .packetOverflow

/-- A packet that fits and is long enough may join `out`, with the sideband of its bytes (I8). -/
theorem State.Inv.emit (h : s.Inv) {bytes : List Byte} {ok : Bool} (hne : bytes ≠ [])
    (hmin : s.cfg.minPacketLen ≤ bytes.length) (hmax : bytes.length ≤ s.cfg.pktMaxBytes)
    (hok : ok = true ↔ xorBytes bytes = 0x00#8) : (s.emit bytes ok).Inv := by
  refine { h with outSound := fun p hp => ?_ }
  rcases List.mem_append.1 hp with hold | hnew
  · exact h.outSound p hold
  · obtain rfl := List.mem_singleton.1 hnew
    exact ⟨hne, hmin, hmax, hok⟩

theorem State.Inv.flagOne (h : s.Inv) : s.flagOne.Inv := by
  rcases s.flagOne_cases with ⟨hroom, hlen, e⟩ | ⟨-, -, e⟩ | ⟨-, e⟩ <;> rw [e]
  · refine State.Inv.decodeReset (h.emit (by simp) (by simpa using hlen) (by simpa using hroom) ?_)
    rw [decide_eq_true_iff, h.xorBytes_concat_acc]
  · exact h.takeAnomaly .shortPacket
  · exact h.takeAnomaly .packetOverflow

theorem State.Inv.headEffect (h : s.Inv) (b : Bool) : (s.headEffect b).Inv := by
  cases hp : s.phase with
  | seek =>
    rw [State.headEffect_seek hp]
    split_ifs
    · exact h.countOne hp
    · exact h.endRun hp
  | frame =>
    by_cases hl : s.bitCnt.val = 8
    · rw [State.headEffect_flag hp hl]
      split_ifs
      · exact h.flagOne
      · exact h.flagZero hp
    · rw [State.headEffect_shift hp hl]
      exact h.shiftBit b hp hl

theorem State.Inv.consumerEffect (h : s.Inv) : s.consumerEffect.Inv := by
  cases hq : s.q with
  | nil => rw [State.consumerEffect_nil hq]; exact h.takeAnomaly .queueUnderrun
  | cons b rest => rw [State.consumerEffect_cons hq]; exact (h.pop hq).headEffect b

/-! Steps, cycles and runs. -/

theorem State.Inv.of_step (h : s.Inv) {t : State} (hstep : step s = .next t) : t.Inv := by
  obtain ⟨-, ⟨-, rfl⟩ | ⟨-, p, -, rfl⟩ | ⟨-, rfl⟩⟩ := step_cases hstep
  · exact h.afterFetch.toReset
  · exact h.afterFetch.producer p
  · exact h.afterFetch.consumerEffect

theorem State.Inv.cycleEffect (h : s.Inv) (p : Instr) : (s.cycleEffect p).Inv := by
  unfold State.cycleEffect
  split_ifs
  · exact h.cycleStart.consumerEffect.producer p
  · exact (h.cycleStart.producer p).consumerEffect

/-- Where every word of the source fits the port (R80), the word at the port decodes. -/
theorem decode_evPort_of_fits (h : ∀ w ∈ s.events, w < 2 ^ (s.cfg.tsW + 2)) :
    ∃ p, decode s.cfg.tsW (.ev s.evPort) = .ok p := by
  have hfits : s.evPort < 2 ^ (s.cfg.tsW + 2) := by
    unfold State.evPort
    cases hev : s.events with
    | nil => exact Nat.two_pow_pos _
    | cons w ws => exact h w (by simp [hev])
  obtain ⟨p, hdec, -⟩ := decode_ev_of_fits hfits
  exact ⟨p, hdec⟩

theorem State.Inv.decode_evPort (h : s.Inv) : ∃ p, decode s.cfg.tsW (.ev s.evPort) = .ok p :=
  decode_evPort_of_fits h.eventsFit

/-- R10: in a state that meets the invariants a step answers, whatever the turn. -/
theorem State.Inv.step_answers (h : s.Inv) : ∃ t, step s = .next t := by
  cases hturn : s.turn with
  | reset => exact ⟨_, step_of_reset h.config hturn⟩
  | producer =>
    obtain ⟨p, hdec⟩ := h.decode_evPort
    exact ⟨_, step_of_producer h.config hturn hdec⟩
  | consumer => exact ⟨_, step_of_consumer h.config hturn⟩

/-- In a state that meets the invariants the step of a run answers the run's next state. -/
theorem State.Inv.step_runUnder {σ : Schedule} {k : Nat} (h : (s.runUnder σ k).Inv) :
    step ((s.runUnder σ k).inTurn (σ k)) = .next (s.runUnder σ (k + 1)) := by
  obtain ⟨t, ht⟩ := (h.inTurn (σ k)).step_answers
  rw [ht, State.runUnder_succ ht]

theorem State.Inv.runUnder (h : s.Inv) (σ : Schedule) (k : Nat) : (s.runUnder σ k).Inv := by
  induction k with
  | zero => exact h
  | succ k ih => exact (ih.inTurn (σ k)).of_step ih.step_runUnder

end

/-- Settles O43: a step is RST or the effect of one agent's operation, after the turn is used up. -/
theorem invariantsKeptByStep : Obligations.InvariantsKeptByStep := fun _ _ h => h.of_step

/-- Settles O44: a cycle with `rst = 0` is the effects of both agents in one of the two orders (R63). -/
theorem invariantsKeptByClock : Obligations.InvariantsKeptByClock := by
  intro rst s t h hclock
  cases rst with
  | true =>
    rw [State.clock_true] at hclock
    obtain ⟨-, rfl⟩ := exec_rst_next.1 hclock
    exact h.cycleStart.toReset
  | false =>
    obtain ⟨-, p, -, rfl⟩ := State.clock_false_cases hclock
    exact h.cycleEffect p

/-- Settles O9: the configuration is well-formed and the word at the port decodes. -/
theorem everyStepAnswersANextState : Obligations.EveryStepAnswersANextState := fun _ h => h.step_answers

/-- Settles O53: the invariants hold along the run, and in each of its states the step answers. -/
theorem runsNeverStop : Obligations.RunsNeverStop := fun _ σ h k =>
  ⟨h.runUnder σ k, (h.runUnder σ k).step_runUnder⟩

end Sys2Proof.Machine
end

section
/-! PROOFS. The operations of the two agents as guarded effects, and the frame of each effect: what the other agent,
the environment and the side histories hold is neither read nor written (R20, R60 (e), R190).
-/

namespace Sys2Proof.Machine

/-! The guards. -/

/-- Settles O8: every consumer operation stands behind the guard of the selector word. -/
theorem unselectedOperationRefused : Obligations.UnselectedOperationRefused := by
  intro i s hwf hi hne
  cases i with
  | cWait | cSeek1 | cSeek0 | cShift _ | cFlag0 | cFlag1 => exact State.selected_notSelected hwf hne
  | _ => cases hi

/-- R190: an operation of agent C answers only where it is selected, and then with the selected effect. -/
theorem exec_consumer_next {i : Instr} (hi : i.isConsumer = true) {s t : State} :
    exec i s = .next t ↔ s.cfg.WellFormed ∧ decodeSel s.sel = i ∧ t = s.consumerEffect := by
  constructor
  · intro h
    have hwf := wellFormed_of_exec_next h
    by_cases hsel : decodeSel s.sel = i
    · rw [← hsel, exec_selected hwf] at h
      cases h
      exact ⟨hwf, hsel, rfl⟩
    · rw [unselectedOperationRefused i s hwf hi hsel] at h
      cases h
  · rintro ⟨hwf, rfl, rfl⟩
    exact exec_selected hwf

/-- R111 to R113: an operation of agent P answers under a well-formed configuration. -/
theorem exec_producer_next {i : Instr} (hi : i.isProducer = true) {s t : State} :
    exec i s = .next t ↔ s.cfg.WellFormed ∧ t = producerEffect i s := by
  constructor
  · intro h
    have hwf := wellFormed_of_exec_next h
    rw [exec_producer hi hwf] at h
    cases h
    exact ⟨hwf, rfl⟩
  · rintro ⟨hwf, rfl⟩
    exact exec_producer hi hwf

/-- Every operation is RST, one of agent P or one of agent C (R89). -/
theorem rst_or_producer_or_consumer (i : Instr) :
    i = .rst ∨ i.isProducer = true ∨ i.isConsumer = true := by
  cases i <;> simp [Instr.isProducer, Instr.isConsumer]

theorem isConsumer_eq_false_of_isProducer {i : Instr} (h : i.isProducer = true) : i.isConsumer = false := by
  cases i <;> simp_all [Instr.isProducer, Instr.isConsumer]

/-- R84, R190: the selection reads the queue, the phase and the group counter. -/
theorem State.decodeSel_congr {s t : State} (hq : t.q = s.q) (hp : t.phase = s.phase)
    (hl : t.bitCnt = s.bitCnt) : decodeSel t.sel = decodeSel s.sel := by
  cases h : s.q with
  | nil => rw [State.decodeSel_nil h, State.decodeSel_nil (hq.trans h)]
  | cons b rest => rw [State.decodeSel_cons h, State.decodeSel_cons (hq.trans h), hp, hl]

/-! Agent C: the effect of a bit under any queue, registers of agent P, environment and earlier notes. -/

/-- Agent C's own elements from `d` (with the configuration), everything else from `r`; the notes of `d` follow
those of `r`. -/
def State.withRest (d r : State) : State :=
  { r with
    cfg := d.cfg, phase := d.phase, oneCount := d.oneCount, bitCnt := d.bitCnt, acc := d.acc, pkt := d.pkt
    xorAcc := d.xorAcc, pktOvf := d.pktOvf, out := d.out, cNotes := r.cNotes ++ d.cNotes }

/-- A state before agent C has noted anything. -/
def State.unnoted (s : State) : State := { s with cNotes := [] }

/-- Every state is agent C's part of it within the rest of it. -/
theorem State.unnoted_withRest (s : State) : s.unnoted.withRest s = s := by
  simp [State.withRest, State.unnoted]

theorem State.noteC_withRest (a : Anomaly) (d r : State) :
    (d.withRest r).noteC a = (d.noteC a).withRest r := by
  simp [State.noteC, State.withRest]

theorem State.endRun_withRest (d r : State) : (d.withRest r).endRun = d.endRun.withRest r := by
  change (if d.preambleMet then _ else _) = (if d.preambleMet then _ else _ : State).withRest r
  split
  · rfl
  · exact State.noteC_withRest .incompletePreamble { d with oneCount := 0 } r

theorem State.overflow_withRest (d r : State) :
    (d.withRest r).takeAnomaly .packetOverflow = (d.takeAnomaly .packetOverflow).withRest r :=
  State.noteC_withRest .packetOverflow (State.decodeReset { d with pktOvf := true }) r

theorem State.flagZero_withRest (d r : State) : (d.withRest r).flagZero = d.flagZero.withRest r := by
  change (if d.pktRoom then _ else _) = (if d.pktRoom then _ else _ : State).withRest r
  split
  · rfl
  · exact d.overflow_withRest r

theorem State.validate_withRest (d r : State) (bytes : List Byte) (x : Byte) :
    (d.withRest r).validate bytes x = (d.validate bytes x).withRest r := by
  change (if lengthOk d.cfg bytes then _ else _) = (if lengthOk d.cfg bytes then _ else _ : State).withRest r
  split
  · rfl
  · exact State.noteC_withRest .shortPacket d.decodeReset r

theorem State.flagOne_withRest (d r : State) : (d.withRest r).flagOne = d.flagOne.withRest r := by
  change (if d.pktRoom then _ else _) = (if d.pktRoom then _ else _ : State).withRest r
  split
  · exact d.validate_withRest r _ _
  · exact d.overflow_withRest r

/-- The effect of a popped bit reads agent C's own elements alone (R60 (e)). -/
theorem State.headEffect_withRest (b : Bool) (d r : State) :
    (d.withRest r).headEffect b = (d.headEffect b).withRest r := by
  cases hp : d.phase with
  | seek =>
    rw [State.headEffect_seek hp, State.headEffect_seek (s := d.withRest r) hp]
    cases b with
    | true => rfl
    | false => exact d.endRun_withRest r
  | frame =>
    by_cases hl : d.bitCnt.val = 8
    · rw [State.headEffect_flag hp hl, State.headEffect_flag (s := d.withRest r) hp hl]
      cases b with
      | true => exact d.flagOne_withRest r
      | false => exact d.flagZero_withRest r
    · rw [State.headEffect_shift hp hl, State.headEffect_shift (s := d.withRest r) hp hl]
      rfl

/-- What agent C does to a state is what it does to its own part of it, the head bit removed (R190). -/
theorem State.consumerEffect_withRest (d r : State) :
    (d.withRest r).consumerEffect =
      ({ d with q := r.q }.consumerEffect).withRest { r with q := r.q.tail } := by
  cases hq : r.q with
  | nil =>
    rw [State.consumerEffect_nil (s := d.withRest r) hq, State.consumerEffect_nil (s := { d with q := [] }) rfl]
    have hr : r = { r with q := [] } := by rw [← hq]
    exact (State.noteC_withRest .queueUnderrun d r).trans
      (congrArg (State.withRest (d.noteC .queueUnderrun)) hr)
  | cons b rest =>
    rw [State.consumerEffect_cons (s := d.withRest r) hq,
      State.consumerEffect_cons (s := { d with q := b :: rest }) rfl]
    exact State.headEffect_withRest b { d with q := rest } { r with q := rest }

/-- Agent C's effect on a state, with everything that is not agent C's taken from that state. -/
theorem State.consumerEffect_eq_withRest (s : State) :
    s.consumerEffect = s.unnoted.consumerEffect.withRest { s with q := s.q.tail } := by
  have h := State.consumerEffect_withRest s.unnoted s
  rwa [State.unnoted_withRest] at h

/-- Agent C neither reads nor writes agent P's registers and the environment (R20, R60 (e)). -/
theorem State.consumerEffect_with_env (s : State) (x : Nat) (v o : Bool) (es : List Nat) (σ : List Turn) (n : Nat) :
    { s with lastRise := x, riseValid := v, qOvf := o, events := es, sched := σ, freeCount := n }.consumerEffect =
      { s.consumerEffect with
        lastRise := x, riseValid := v, qOvf := o, events := es, sched := σ, freeCount := n } := by
  have h := State.consumerEffect_withRest s.unnoted
    { s with lastRise := x, riseValid := v, qOvf := o, events := es, sched := σ, freeCount := n }
  rw [s.consumerEffect_eq_withRest, ← State.unnoted_withRest { s with
    lastRise := x, riseValid := v, qOvf := o, events := es, sched := σ, freeCount := n }]
  exact h

section
variable (s : State)

@[simp] theorem State.consumerEffect_lastRise : s.consumerEffect.lastRise = s.lastRise := by
  rw [s.consumerEffect_eq_withRest]; rfl

@[simp] theorem State.consumerEffect_riseValid : s.consumerEffect.riseValid = s.riseValid := by
  rw [s.consumerEffect_eq_withRest]; rfl

@[simp] theorem State.consumerEffect_qOvf : s.consumerEffect.qOvf = s.qOvf := by
  rw [s.consumerEffect_eq_withRest]; rfl

@[simp] theorem State.consumerEffect_events : s.consumerEffect.events = s.events := by
  rw [s.consumerEffect_eq_withRest]; rfl

@[simp] theorem State.consumerEffect_sched : s.consumerEffect.sched = s.sched := by
  rw [s.consumerEffect_eq_withRest]; rfl

@[simp] theorem State.consumerEffect_freeCount : s.consumerEffect.freeCount = s.freeCount := by
  rw [s.consumerEffect_eq_withRest]; rfl

@[simp] theorem State.consumerEffect_pNotes : s.consumerEffect.pNotes = s.pNotes := by
  rw [s.consumerEffect_eq_withRest]; rfl

end

/-- Agent C's effect under other words of the source and another number of the free values. -/
theorem State.consumerEffect_with_source (s : State) (es : List Nat) (n : Nat) :
    { s with events := es, freeCount := n }.consumerEffect =
      { s.consumerEffect with events := es, freeCount := n } := by
  refine (s.consumerEffect_with_env s.lastRise s.riseValid s.qOvf es s.sched n).trans ?_
  rw [← s.consumerEffect_lastRise, ← s.consumerEffect_riseValid, ← s.consumerEffect_qOvf, ← s.consumerEffect_sched]

/-- The frame of agent C (R20). -/
theorem State.consumerEffect_frame (s : State) :
    s.consumerEffect =
      { s with
        q := s.consumerEffect.q, phase := s.consumerEffect.phase, oneCount := s.consumerEffect.oneCount
        bitCnt := s.consumerEffect.bitCnt, acc := s.consumerEffect.acc, pkt := s.consumerEffect.pkt
        xorAcc := s.consumerEffect.xorAcc, pktOvf := s.consumerEffect.pktOvf, out := s.consumerEffect.out
        cNotes := s.consumerEffect.cNotes } := by
  rw [← s.consumerEffect_cfg, ← s.consumerEffect_lastRise, ← s.consumerEffect_riseValid, ← s.consumerEffect_qOvf,
    ← s.consumerEffect_events, ← s.consumerEffect_sched, ← s.consumerEffect_freeCount, ← s.consumerEffect_pNotes]

/-! Agent P. -/

section
variable (p : Instr) (s : State)

@[simp] theorem producerEffect_decodeState : (producerEffect p s).decodeState = s.decodeState := by
  rw [producerEffect_frame]; rfl

@[simp] theorem producerEffect_out : (producerEffect p s).out = s.out := by
  rw [producerEffect_frame]; rfl

@[simp] theorem producerEffect_cNotes : (producerEffect p s).cNotes = s.cNotes := by
  rw [producerEffect_frame]; rfl

@[simp] theorem producerEffect_events : (producerEffect p s).events = s.events := by
  rw [producerEffect_frame]; rfl

@[simp] theorem producerEffect_sched : (producerEffect p s).sched = s.sched := by
  rw [producerEffect_frame]; rfl

/-- Agent P appends one bit at most (R50). -/
theorem producerEffect_q_cases :
    (producerEffect p s).q = s.q ∨ ∃ b, (producerEffect p s).q = s.q ++ [b] := by
  cases p with
  | pFall u =>
    rcases s.fall_cases u with ⟨-, e⟩ | ⟨-, b, -, ⟨-, e⟩ | ⟨-, e⟩⟩ | ⟨-, -, e⟩ <;> simp [producerEffect, e]
  | _ => exact .inl rfl

/-- While no rising edge is pending agent P offers no bit (R111 to R113). -/
theorem producerEffect_of_not_riseValid (hv : s.riseValid = false) :
    (producerEffect p s).q = s.q ∧ (producerEffect p s).qOvf = s.qOvf := by
  cases p with
  | pFall u => rw [producerEffect, State.fall_of_not_riseValid u hv]; exact ⟨rfl, rfl⟩
  | _ => exact ⟨rfl, rfl⟩

end

theorem State.takeClass_with_source (r : BitClass) (s : State) (es : List Nat) (n : Nat) :
    { s with events := es, freeCount := n }.takeClass r = { s.takeClass r with events := es, freeCount := n } := by
  have hpush (b : Bool) :
      { s with events := es, freeCount := n }.qPush b = { s.qPush b with events := es, freeCount := n } := by
    rcases s.qPush_cases b with ⟨hroom, e⟩ | ⟨hfull, e⟩
    · rw [e, State.qPush_of_room (s := { s with events := es, freeCount := n }) b hroom]
    · rw [e, State.qPush_of_full (s := { s with events := es, freeCount := n }) b hfull]
  cases r with
  | one => exact hpush true
  | zero => exact hpush false
  | invalid => rfl

/-- Agent P's effect under other words of the source and another number of the free values. -/
theorem producerEffect_with_source (p : Instr) (s : State) (es : List Nat) (n : Nat) :
    producerEffect p { s with events := es, freeCount := n } =
      { producerEffect p s with events := es, freeCount := n } := by
  cases p with
  | pFall u =>
    rw [producerEffect, producerEffect]
    rcases Bool.eq_false_or_eq_true s.riseValid with hv | hv
    · rw [State.fall_of_riseValid hv rfl,
        State.fall_of_riseValid (s := { s with events := es, freeCount := n }) hv rfl]
      exact State.takeClass_with_source _ { s with riseValid := false } es n
    · rw [State.fall_of_not_riseValid u hv,
        State.fall_of_not_riseValid (s := { s with events := es, freeCount := n }) u hv]
  | _ => rfl

/-- Settles O39: the frames of the two effects; RST is neither agent's and writes neither configuration, events nor
schedule. -/
theorem agentsWriteTheirOwnState : Obligations.AgentsWriteTheirOwnState := by
  intro i s t h
  rcases rst_or_producer_or_consumer i with rfl | hi | hi
  · obtain ⟨-, rfl⟩ := exec_rst_next.1 h
    exact ⟨rfl, rfl, rfl, nofun, nofun⟩
  · obtain ⟨-, rfl⟩ := (exec_producer_next hi).1 h
    refine ⟨producerEffect_cfg i s, producerEffect_events i s, producerEffect_sched i s,
      fun _ => ⟨?_, producerEffect_q_cases i s⟩, fun hc => ?_⟩
    · rw [producerEffect_frame]
      rfl
    · rw [isConsumer_eq_false_of_isProducer hi] at hc
      cases hc
  · obtain ⟨-, -, rfl⟩ := (exec_consumer_next hi).1 h
    refine ⟨s.consumerEffect_cfg, s.consumerEffect_events, s.consumerEffect_sched, fun hp => ?_,
      fun _ => ⟨s.consumerEffect_frame, s.consumerEffect_q⟩⟩
    rw [isConsumer_eq_false_of_isProducer hp] at hi
    cases hi

/-- Settles O40: neither the selection nor the effect of agent C reads what is replaced. -/
theorem consumerReadsNoProducerState : Obligations.ConsumerReadsNoProducerState := by
  intro i s t x v o es σ hi h
  obtain ⟨hwf, rfl, rfl⟩ := (exec_consumer_next hi).1 h
  refine (exec_consumer_next hi).2 ⟨hwf, State.decodeSel_congr rfl rfl rfl, ?_⟩
  have henv := s.consumerEffect_with_env x v o es σ s.freeCount
  refine Eq.symm (henv.trans ?_)
  rw [← s.consumerEffect_freeCount]

end Sys2Proof.Machine
end

section
/-! PROOFS. The step as the operation of the turn, quiescence and the measure that leads to it (R191, R197). -/

namespace Sys2Proof.Machine

/-! Taking a turn. -/

theorem step_of_fetch {s : State} {i : Instr} (h : s.fetch = .ok i) : step s = exec i s.afterFetch := by
  rw [step, h]

theorem State.turn_of_sched {s : State} {x : Turn} {σ : List Turn} (h : s.sched = x :: σ) : s.turn = x := by
  rw [State.turn, h]
  rfl

theorem State.afterFetch_of_sched {s : State} {x : Turn} {σ : List Turn} (h : s.sched = x :: σ) :
    s.afterFetch = { s with
      events := if x = .producer then s.events.tail else s.events
      sched := σ
      freeCount := s.freeCount + 1 } := by
  rw [State.afterFetch, State.turn_of_sched h, h]
  rfl

/-- With no event left the port shows `ev_valid = 0`, which is P.IDLE (R113). -/
theorem decode_evPort_nil {s : State} (h : s.events = []) : decode s.cfg.tsW (.ev s.evPort) = .ok .pIdle := by
  rw [State.evPort, h]
  exact decode_ev_invalid (Nat.two_pow_pos _)

theorem eq_pIdle_of_decode_evPort_nil {s : State} {p : Instr} (h : s.events = [])
    (hdec : decode s.cfg.tsW (.ev s.evPort) = .ok p) : p = .pIdle := by
  rw [decode_evPort_nil h] at hdec
  injection hdec with e
  exact e.symm

/-- Settles O5: the turn names the operation and what taking it uses up. -/
theorem stepRunsTheOperationOfTheTurn : Obligations.StepRunsTheOperationOfTheTurn := by
  refine ⟨fun s σ w es i hσ hev hdec => ?_, fun s σ hσ hev => ?_, fun s σ hσ => ?_, fun s σ hσ => ?_, fun s hσ => ?_⟩
  · have hfetch : s.fetch = .ok i := by
      rw [State.fetch, State.turn_of_sched hσ, State.evPort, hev]
      exact hdec
    rw [step_of_fetch hfetch, State.afterFetch_of_sched hσ, hev]
    rfl
  · have hfetch : s.fetch = .ok .pIdle := by
      rw [State.fetch, State.turn_of_sched hσ]
      exact decode_evPort_nil hev
    rw [step_of_fetch hfetch, State.afterFetch_of_sched hσ, hev]
    simp
  · have hfetch : s.fetch = .ok (decodeSel s.sel) := by rw [State.fetch, State.turn_of_sched hσ]
    rw [step_of_fetch hfetch, State.afterFetch_of_sched hσ]
    rfl
  · have hfetch : s.fetch = .ok .rst := by
      rw [State.fetch, State.turn_of_sched hσ]
      rfl
    rw [step_of_fetch hfetch, State.afterFetch_of_sched hσ]
    rfl
  · cases s
    obtain rfl := hσ
    rfl

/-! Quiescence. -/

/-- Settles O48: an empty queue selects C.WAIT, and no event is P.IDLE. -/
theorem quiescentStateIsFinal : Obligations.QuiescentStateIsFinal := by
  intro s σ hwf ⟨hev, hq⟩
  constructor
  · intro hσ
    rw [step_consumer_turn hwf hσ]
    exact congrArg _ (State.consumerEffect_nil hq)
  · intro hσ
    rw [step_of_producer hwf (State.turn_of_sched hσ) (decode_evPort_nil hev), State.afterFetch_of_sched hσ, hev]
    rfl

/-- Settles O49: a word taken adds one bit at most, and a turn of agent C takes the head bit. -/
theorem stepsApproachQuiescence : Obligations.StepsApproachQuiescence := by
  intro s t hturn h
  obtain ⟨-, ⟨hreset, -⟩ | ⟨hp, p, hdec, rfl⟩ | ⟨hc, rfl⟩⟩ := step_cases h
  · exact absurd hreset hturn
  · cases hev : s.events with
    | nil =>
      obtain rfl := eq_pIdle_of_decode_evPort_nil hev hdec
      simp [producerEffect, hp, hev]
    | cons w ws =>
      have hgrow : (producerEffect p s.afterFetch).q.length ≤ s.q.length + 1 := by
        rcases producerEffect_q_cases p s.afterFetch with e | ⟨b, e⟩ <;> simp [e]
      have hevs : (producerEffect p s.afterFetch).events = ws := by simp [hp, hev]
      rw [hevs, List.length_cons]
      exact ⟨by omega, fun _ => by omega⟩
  · cases hq : s.q with
    | nil => simp [State.consumerEffect_q, hc, hq]
    | cons b rest => simp [State.consumerEffect_q, hc, hq]

end Sys2Proof.Machine
end

section
/-! PROOFS. What each operation does to single elements of the state: agent P's offer (R116), the registers an operation
does not read (R21), the output (R193), the control state (R35) and the noted anomalies (R210, R218 (f)).
-/

namespace Sys2Proof.Machine

/-! Agent P's registers and its offer to the queue. -/

/-- Settles O15: the operand is cut before it is used. -/
theorem wideTimestampIsCut : Obligations.WideTimestampIsCut := by
  intro s t
  have hcut : tsOperand s.cfg (t % 2 ^ s.cfg.tsW) = tsOperand s.cfg t := Nat.mod_mod _ _
  constructor
  · change s.configured (State.rise t) = s.configured (State.rise _)
    rw [State.configured, State.configured, State.rise, State.rise, hcut]
  · change s.configured (State.fall t) = s.configured (State.fall _)
    rw [State.configured, State.configured, State.fall, State.fall, hcut]

/-- What `QPush` does with an offered bit, by the room in the queue (R51). -/
theorem State.qPush_offer (s : State) (b : Bool) :
    (s.q.length < s.cfg.qDepth → (s.qPush b).q = s.q ++ [b] ∧ (s.qPush b).qOvf = s.qOvf) ∧
    (s.cfg.qDepth ≤ s.q.length → (s.qPush b).q = s.q ∧ (s.qPush b).qOvf = true) := by
  refine ⟨fun h => ?_, fun h => ?_⟩
  · rw [State.qPush_of_room b h]
    exact ⟨rfl, rfl⟩
  · rw [State.qPush_of_full b h]
    exact ⟨rfl, rfl⟩

theorem State.takeClass_registers (r : BitClass) (s : State) :
    (s.takeClass r).lastRise = s.lastRise ∧ (s.takeClass r).riseValid = s.riseValid := by
  have hpush (b : Bool) : (s.qPush b).lastRise = s.lastRise ∧ (s.qPush b).riseValid = s.riseValid := by
    rcases s.qPush_cases b with ⟨-, e⟩ | ⟨-, e⟩ <;> rw [e] <;> exact ⟨rfl, rfl⟩
  cases r with
  | one => exact hpush true
  | zero => exact hpush false
  | invalid => exact ⟨rfl, rfl⟩

/-- A class with a queue bit offers that bit (R82, R112). -/
theorem State.takeClass_of_classBit {r : BitClass} {b : Bool} (h : classBit r = some b) (s : State) :
    s.takeClass r = s.qPush b := by
  cases r <;> cases h <;> rfl

/-- Settles O19: the class of the delta is the same in both states, so both are offered its bit, or neither is. -/
theorem producerReadsNoConsumerState : Obligations.ProducerReadsNoConsumerState := by
  intro i s₁ s₂ t₁ t₂ hi h₁ h₂ h₃ h₄ h₅ hlast hvalid hexec₁ hexec₂
  obtain ⟨-, rfl⟩ := (exec_producer_next hi).1 hexec₁
  obtain ⟨-, rfl⟩ := (exec_producer_next hi).1 hexec₂
  cases i with
  | pIdle => exact ⟨hlast, hvalid, .inl ⟨rfl, rfl, rfl, rfl⟩⟩
  | pRise u =>
    refine ⟨?_, rfl, .inl ⟨rfl, rfl, rfl, rfl⟩⟩
    change u % 2 ^ s₁.cfg.tsW = u % 2 ^ s₂.cfg.tsW
    rw [h₅]
  | pFall u =>
    simp only [producerEffect]
    cases hv : s₁.riseValid with
    | false =>
      have hv₂ : s₂.riseValid = false := hvalid ▸ hv
      rw [State.fall_of_not_riseValid u hv, State.fall_of_not_riseValid u hv₂]
      exact ⟨hlast, hvalid, .inl ⟨rfl, rfl, rfl, rfl⟩⟩
    | true =>
      have hv₂ : s₂.riseValid = true := hvalid ▸ hv
      generalize hr : classify s₁.cfg (delta s₁.cfg (tsOperand s₁.cfg u) s₁.lastRise) = r
      have hr₂ : classify s₂.cfg (delta s₂.cfg (tsOperand s₂.cfg u) s₂.lastRise) = r := by
        rw [← hr, hlast]
        exact (classify_delta_congr u _ h₁ h₂ h₃ h₄ h₅).symm
      obtain ⟨hlast₁, hvalid₁⟩ := State.takeClass_registers r { s₁ with riseValid := false }
      obtain ⟨hlast₂, hvalid₂⟩ := State.takeClass_registers r { s₂ with riseValid := false }
      rw [State.fall_of_riseValid hv hr, State.fall_of_riseValid hv₂ hr₂]
      refine ⟨hlast₁.trans (hlast.trans hlast₂.symm), hvalid₁.trans hvalid₂.symm, ?_⟩
      cases hb : classBit r with
      | none =>
        obtain rfl := classBit_eq_none_iff.1 hb
        exact .inl ⟨rfl, rfl, rfl, rfl⟩
      | some b =>
        rw [State.takeClass_of_classBit hb, State.takeClass_of_classBit hb]
        obtain ⟨hroom₁, hfull₁⟩ := State.qPush_offer { s₁ with riseValid := false } b
        obtain ⟨hroom₂, hfull₂⟩ := State.qPush_offer { s₂ with riseValid := false } b
        exact .inr ⟨b, hroom₁, hroom₂, hfull₁, hfull₂⟩
  | _ => cases hi

/-- Settles O20: RST and P.RISE overwrite `last_rise`, P.FALL is an orphan, and agent C does not read it. -/
theorem lastRiseUnobservableWhileNotPending : Obligations.LastRiseUnobservableWhileNotPending := by
  intro i s t x hv h
  have hwf := wellFormed_of_exec_next h
  rcases rst_or_producer_or_consumer i with rfl | hi | hi
  · obtain ⟨-, rfl⟩ := exec_rst_next.1 h
    exact ⟨s.toReset.lastRise, exec_rst_next.2 ⟨hwf, rfl⟩, fun _ => rfl⟩
  · obtain ⟨-, rfl⟩ := (exec_producer_next hi).1 h
    cases i with
    | pIdle => exact ⟨x, exec_pIdle_next.2 ⟨hwf, rfl⟩, fun hv' => absurd (hv.symm.trans hv') (by decide)⟩
    | pRise u => exact ⟨tsOperand s.cfg u, exec_pRise_next.2 ⟨hwf, rfl⟩, fun _ => rfl⟩
    | pFall u =>
      have horphan : s.fall u = s := State.fall_of_not_riseValid u hv
      refine ⟨x, exec_pFall_next.2 ⟨hwf, ?_⟩, fun hv' => ?_⟩
      · rw [producerEffect, horphan, State.fall_of_not_riseValid (s := { s with lastRise := x }) u hv]
      · rw [producerEffect, horphan, hv] at hv'
        cases hv'
    | _ => cases hi
  · obtain ⟨-, rfl, rfl⟩ := (exec_consumer_next hi).1 h
    refine ⟨x, (exec_consumer_next hi).2 ⟨hwf, State.decodeSel_congr rfl rfl rfl, ?_⟩, fun hv' => ?_⟩
    · have henv := s.consumerEffect_with_env x s.riseValid s.qOvf s.events s.sched s.freeCount
      refine Eq.symm (henv.trans ?_)
      rw [← s.consumerEffect_riseValid, ← s.consumerEffect_qOvf, ← s.consumerEffect_events,
        ← s.consumerEffect_sched, ← s.consumerEffect_freeCount]
    · rw [s.consumerEffect_riseValid, hv] at hv'
      cases hv'

/-! Agent C's output and control state. -/

/-- Settles O36: flag 1 emits on its branch of a long enough packet; no other branch of any operation but RST
writes `out`. -/
theorem onlyFlag1Emits : Obligations.OnlyFlag1Emits := by
  intro i s t hrst h
  cases i with
  | rst => exact absurd rfl hrst
  | pIdle | pRise _ | pFall _ =>
    obtain ⟨-, ht⟩ := (exec_producer_next rfl).1 h
    exact .inl (ht ▸ producerEffect_out _ s)
  | cWait => obtain ⟨-, -, rfl⟩ := exec_cWait_next.1 h; exact .inl rfl
  | cSeek1 => obtain ⟨-, -, r, -, rfl⟩ := exec_cSeek1_next.1 h; exact .inl rfl
  | cSeek0 => obtain ⟨-, -, r, -, rfl⟩ := exec_cSeek0_next.1 h; exact .inl (State.endRun_out _)
  | cShift b => obtain ⟨-, -, -, r, -, rfl⟩ := exec_cShift_next.1 h; exact .inl rfl
  | cFlag0 => obtain ⟨-, -, -, r, -, rfl⟩ := exec_cFlag0_next.1 h; exact .inl (State.flagZero_out _)
  | cFlag1 =>
    obtain ⟨-, -, -, r, -, rfl⟩ := exec_cFlag1_next.1 h
    rcases State.flagOne_cases { s with q := r } with ⟨hroom, hlen, e⟩ | ⟨-, -, e⟩ | ⟨-, e⟩ <;> rw [e]
    · exact .inr ⟨rfl, hroom, hlen, rfl, rfl⟩
    · exact .inl rfl
    · exact .inl rfl

theorem State.flagOne_decodeState (s : State) : s.flagOne.decodeState = .initial := by
  rcases s.flagOne_cases with ⟨-, -, e⟩ | ⟨-, -, e⟩ | ⟨-, e⟩ <;> rw [e] <;> rfl

/-- Settles O38: the branches of each operation, with I3 for the seeking ones and I7 for the bound that C.FLAG0
tests. -/
theorem controlStateAdvances : Obligations.ControlStateAdvances := by
  intro i s t hinv h
  have hseek (hp : s.phase = .seek) : s.bitCnt = 0 := (hinv.seekEmpty hp).1
  refine ⟨hseek, fun hi => ?producer, ?cWait, ?cSeek1, ?cSeek0, ?cShift, ?cFlag0, ?cFlag1, ?rst⟩
  case producer =>
    obtain ⟨-, rfl⟩ := (exec_producer_next hi).1 h
    have hdec := producerEffect_decodeState i s
    exact ⟨congrArg DecodeState.phase hdec, congrArg DecodeState.bitCnt hdec⟩
  case cWait =>
    rintro rfl
    obtain ⟨-, -, rfl⟩ := exec_cWait_next.1 h
    exact ⟨rfl, rfl⟩
  case cSeek1 =>
    rintro rfl
    obtain ⟨-, hp, r, -, rfl⟩ := exec_cSeek1_next.1 h
    exact ⟨hp, hseek hp⟩
  case cSeek0 =>
    rintro rfl
    obtain ⟨-, hp, r, -, rfl⟩ := exec_cSeek0_next.1 h
    rcases State.endRun_cases { s with q := r } with ⟨hhit, e⟩ | ⟨hmiss, e⟩ <;> rw [e]
    · exact ⟨hseek hp, iff_of_true rfl hhit⟩
    · exact ⟨hseek hp, iff_of_false (by simp [hp]) hmiss.not_ge⟩
  case cShift =>
    rintro b rfl
    obtain ⟨-, hp, hl, r, -, rfl⟩ := exec_cShift_next.1 h
    exact ⟨hp, nextBitCnt_val (State.bitCnt_lt_iff.2 hl)⟩
  case cFlag0 =>
    rintro rfl
    obtain ⟨-, hp, -, r, -, rfl⟩ := exec_cFlag0_next.1 h
    rcases State.flagZero_cases { s with q := r } with ⟨hroom, e⟩ | ⟨hfull, e⟩ <;> rw [e]
    · exact ⟨rfl, iff_of_false (by simp [hp]) hroom.ne⟩
    · exact ⟨rfl, iff_of_true rfl (hinv.storage.2.antisymm hfull)⟩
  case cFlag1 =>
    rintro rfl
    obtain ⟨-, -, -, r, -, rfl⟩ := exec_cFlag1_next.1 h
    have hdec := State.flagOne_decodeState { s with q := r }
    exact ⟨congrArg DecodeState.phase hdec, congrArg DecodeState.bitCnt hdec⟩
  case rst =>
    rintro rfl
    obtain ⟨-, rfl⟩ := exec_rst_next.1 h
    exact ⟨rfl, rfl⟩

/-! The anomalies (R210). -/

/-- Agent C notes nothing on a turn of agent P, and agent P nothing on a turn of agent C. -/
theorem exec_notes_of_other {i : Instr} {s t : State} (h : exec i s = .next t) :
    (i.isProducer = true → t.cNotes = s.cNotes) ∧ (i.isConsumer = true → t.pNotes = s.pNotes) := by
  refine ⟨fun hi => ?_, fun hi => ?_⟩
  · obtain ⟨-, rfl⟩ := (exec_producer_next hi).1 h
    exact producerEffect_cNotes i s
  · obtain ⟨-, -, rfl⟩ := (exec_consumer_next hi).1 h
    exact s.consumerEffect_pNotes

/-- R210, the rows of agent P: what is noted, its cause and its state change. -/
theorem State.fall_pNotes_cases (u : Nat) (s : State) :
    (s.fall u).pNotes = s.pNotes ∨
    ((s.fall u).pNotes = s.pNotes ++ [.timingNoise] ∧
      (s.riseValid = true ∧ classify s.cfg (delta s.cfg (tsOperand s.cfg u) s.lastRise) = .invalid) ∧
      s.fall u = { s with riseValid := false, pNotes := (s.fall u).pNotes }) ∨
    ((s.fall u).pNotes = s.pNotes ++ [.queueOverflow] ∧
      (s.riseValid = true ∧ classify s.cfg (delta s.cfg (tsOperand s.cfg u) s.lastRise) ≠ .invalid) ∧
      s.cfg.qDepth ≤ s.q.length ∧
      s.fall u = { s with riseValid := false, qOvf := true, pNotes := (s.fall u).pNotes }) := by
  rcases s.fall_cases u with ⟨-, e⟩ | ⟨hv, b, hb, ⟨-, e⟩ | ⟨hfull, e⟩⟩ | ⟨hv, hinvalid, e⟩ <;> rw [e]
  · exact .inl rfl
  · exact .inl rfl
  · refine .inr (.inr ⟨rfl, ⟨hv, fun hinvalid => ?_⟩, hfull, rfl⟩)
    rw [classBit_eq_none_iff.2 hinvalid] at hb
    cases hb
  · exact .inr (.inl ⟨rfl, ⟨hv, hinvalid⟩, rfl⟩)

/-- R215: with a rising edge pending, a delta in a window that meets a full queue is noted. -/
theorem State.fall_of_full {s : State} {u : Nat} (hv : s.riseValid = true)
    (hclass : classify s.cfg (delta s.cfg (tsOperand s.cfg u) s.lastRise) ≠ .invalid)
    (hfull : s.cfg.qDepth ≤ s.q.length) :
    s.fall u = { s with riseValid := false, qOvf := true, pNotes := s.pNotes ++ [.queueOverflow] } := by
  obtain ⟨b, hb⟩ := Option.ne_none_iff_exists'.1 (mt classBit_eq_none_iff.1 hclass)
  rw [State.fall_of_riseValid hv rfl, State.takeClass_of_classBit hb]
  exact State.qPush_of_full b hfull

/-- R210, the rows of agent C: what is noted, its cause and its state change. -/
theorem exec_cNotes_cases {i : Instr} {s t : State} (hi : i.isConsumer = true) (h : exec i s = .next t) :
    t.cNotes = s.cNotes ∨
    (t.cNotes = s.cNotes ++ [.incompletePreamble] ∧ i = .cSeek0 ∧ s.oneCount < s.cfg.preambleMin ∧
      t = { s with q := s.q.tail, oneCount := 0, cNotes := t.cNotes }) ∨
    (t.cNotes = s.cNotes ++ [.queueUnderrun] ∧ i = .cWait ∧ s.q = [] ∧ t = { s with cNotes := t.cNotes }) ∨
    (t.cNotes = s.cNotes ++ [.shortPacket] ∧ i = .cFlag1 ∧ s.pkt.length < s.cfg.pktMaxBytes ∧
      s.pkt.length + 1 < s.cfg.minPacketLen ∧
      t = { s.decodeReset with q := s.q.tail, cNotes := t.cNotes }) ∨
    (t.cNotes = s.cNotes ++ [.packetOverflow] ∧ (i = .cFlag0 ∨ i = .cFlag1) ∧
      s.cfg.pktMaxBytes ≤ s.pkt.length ∧
      t = { s.decodeReset with q := s.q.tail, pktOvf := true, cNotes := t.cNotes }) := by
  cases i with
  | cWait =>
    obtain ⟨-, hq, rfl⟩ := exec_cWait_next.1 h
    exact .inr (.inr (.inl ⟨rfl, rfl, hq, rfl⟩))
  | cSeek1 => obtain ⟨-, -, r, -, rfl⟩ := exec_cSeek1_next.1 h; exact .inl rfl
  | cSeek0 =>
    obtain ⟨-, -, r, hq, rfl⟩ := exec_cSeek0_next.1 h
    rcases State.endRun_cases { s with q := r } with ⟨-, e⟩ | ⟨hmiss, e⟩ <;> rw [e]
    · exact .inl rfl
    · exact .inr (.inl ⟨rfl, rfl, hmiss, by rw [hq]; rfl⟩)
  | cShift b => obtain ⟨-, -, -, r, -, rfl⟩ := exec_cShift_next.1 h; exact .inl rfl
  | cFlag0 =>
    obtain ⟨-, -, -, r, hq, rfl⟩ := exec_cFlag0_next.1 h
    rcases State.flagZero_cases { s with q := r } with ⟨-, e⟩ | ⟨hfull, e⟩ <;> rw [e]
    · exact .inl rfl
    · exact .inr (.inr (.inr (.inr ⟨rfl, .inl rfl, hfull, by rw [hq]; rfl⟩)))
  | cFlag1 =>
    obtain ⟨-, -, -, r, hq, rfl⟩ := exec_cFlag1_next.1 h
    rcases State.flagOne_cases { s with q := r } with ⟨-, -, e⟩ | ⟨hroom, hshort, e⟩ | ⟨hfull, e⟩ <;> rw [e]
    · exact .inl rfl
    · exact .inr (.inr (.inr (.inl ⟨rfl, rfl, hroom, hshort, by rw [hq]; rfl⟩)))
    · exact .inr (.inr (.inr (.inr ⟨rfl, .inr rfl, hfull, by rw [hq]; rfl⟩)))
  | _ => cases hi

/-- Settles O41: the rows of each agent by its operations, and each cause by the branch that it selects. -/
theorem anomaliesAsTabled : Obligations.AnomaliesAsTabled := by
  intro i s t hrst h
  refine ⟨?pNotes, ?cNotes, ?fall, ?seek0, ?wait, ?short, ?overflow⟩
  case pNotes =>
    cases i with
    | rst => exact absurd rfl hrst
    | pIdle => obtain ⟨-, rfl⟩ := exec_pIdle_next.1 h; exact .inl rfl
    | pRise u => obtain ⟨-, rfl⟩ := exec_pRise_next.1 h; exact .inl rfl
    | pFall u =>
      obtain ⟨-, rfl⟩ := exec_pFall_next.1 h
      rcases s.fall_pNotes_cases u with e | ⟨e, hcause, ht⟩ | ⟨e, hcause, hfull, ht⟩
      · exact .inl e
      · exact .inr (.inl ⟨e, ⟨u, rfl, hcause⟩, ht⟩)
      · exact .inr (.inr ⟨e, ⟨u, rfl, hcause⟩, hfull, ht⟩)
    | cWait | cSeek1 | cSeek0 | cShift _ | cFlag0 | cFlag1 => exact .inl ((exec_notes_of_other h).2 rfl)
  case cNotes =>
    rcases rst_or_producer_or_consumer i with rfl | hi | hi
    · exact absurd rfl hrst
    · exact .inl ((exec_notes_of_other h).1 hi)
    · exact exec_cNotes_cases hi h
  case fall =>
    rintro u rfl hv
    obtain ⟨-, rfl⟩ := exec_pFall_next.1 h
    exact ⟨fun hinvalid => congrArg State.pNotes (State.fall_of_invalid hv hinvalid),
      fun hclass hfull => congrArg State.pNotes (State.fall_of_full hv hclass hfull)⟩
  case seek0 =>
    rintro rfl hmiss
    obtain ⟨-, -, r, -, rfl⟩ := exec_cSeek0_next.1 h
    rw [State.endRun_of_miss (s := { s with q := r }) hmiss]
  case wait =>
    rintro rfl
    obtain ⟨-, -, rfl⟩ := exec_cWait_next.1 h
    rfl
  case short =>
    rintro rfl hroom hshort
    obtain ⟨-, -, -, r, -, rfl⟩ := exec_cFlag1_next.1 h
    rw [State.flagOne_of_short (s := { s with q := r }) hroom hshort]
    rfl
  case overflow =>
    rintro (rfl | rfl) hfull
    · obtain ⟨-, -, -, r, -, rfl⟩ := exec_cFlag0_next.1 h
      rw [State.flagZero_of_full (s := { s with q := r }) hfull]
      rfl
    · obtain ⟨-, -, -, r, -, rfl⟩ := exec_cFlag1_next.1 h
      rw [State.flagOne_of_full (s := { s with q := r }) hfull]
      rfl

/-- Settles O42: by the table each agent's history gains one note at most, and an operation is one agent's only. -/
theorem atMostOneAnomalyPerOperation : Obligations.AtMostOneAnomalyPerOperation := by
  intro i s t hrst h
  obtain ⟨hpNotes, hcNotes, -⟩ := anomaliesAsTabled i s t hrst h
  have hp : t.pNotes = s.pNotes ∨ ∃ a, t.pNotes = s.pNotes ++ [a] := by
    rcases hpNotes with e | ⟨e, -⟩ | ⟨e, -⟩
    · exact .inl e
    all_goals exact .inr ⟨_, e⟩
  have hc : t.cNotes = s.cNotes ∨ ∃ a, t.cNotes = s.cNotes ++ [a] := by
    rcases hcNotes with e | ⟨e, -⟩ | ⟨e, -⟩ | ⟨e, -⟩ | ⟨e, -⟩
    · exact .inl e
    all_goals exact .inr ⟨_, e⟩
  obtain ⟨hproducer, hconsumer⟩ := exec_notes_of_other h
  rcases rst_or_producer_or_consumer i with hi | hi | hi
  · exact absurd hi hrst
  · rw [hproducer hi]
    rcases hp with e | ⟨a, e⟩ <;> simp [e, Nat.add_right_comm]
  · rw [hconsumer hi]
    rcases hc with e | ⟨a, e⟩ <;> simp [e, Nat.add_assoc]

end Sys2Proof.Machine
end

section
/-! PROOFS. Packets: what agent C makes of a sequence of bits (R134, R156), by whatever schedule it takes them, and the
turns of agent C that take the bits of a packet from the queue (R177, R198).
-/

namespace Sys2Proof.Machine

/-! A sequence of bits. -/

/-- What agent C makes of a sequence of popped bits, in order (R190). -/
def State.feed (bits : List Bool) (s : State) : State := bits.foldl (fun u b => u.headEffect b) s

theorem State.feed_cons (b : Bool) (bits : List Bool) (s : State) :
    s.feed (b :: bits) = (s.headEffect b).feed bits := rfl

theorem State.feed_append (bits bits' : List Bool) (s : State) :
    s.feed (bits ++ bits') = (s.feed bits).feed bits' := List.foldl_append

theorem State.feed_withRest (bits : List Bool) (d r : State) :
    (d.withRest r).feed bits = (d.feed bits).withRest r := by
  induction bits generalizing d with
  | nil => rfl
  | cons b bits ih => rw [State.feed_cons, State.feed_cons, State.headEffect_withRest, ih]

/-- What is not agent C's own stays as it is while agent C takes bits (R20). -/
theorem State.feed_eq_withRest (bits : List Bool) (s : State) : s.feed bits = (s.unnoted.feed bits).withRest s := by
  rw [← State.feed_withRest, State.unnoted_withRest]

/-- What agent C makes of bits does not depend on the queue, the turns and the counter of free values. -/
theorem State.feed_with_queue (bits : List Bool) (s : State) (q : List Bool) (σ : List Turn) (n : Nat) :
    { s with q := q, sched := σ, freeCount := n }.feed bits =
      { s.feed bits with q := q, sched := σ, freeCount := n } := by
  rw [s.feed_eq_withRest bits, State.feed_eq_withRest bits { s with q := q, sched := σ, freeCount := n }]
  have hown : State.unnoted { s with q := q, sched := σ, freeCount := n } =
      s.unnoted.withRest { s with q := q, sched := σ, freeCount := n, cNotes := [] } := rfl
  rw [hown, State.feed_withRest]
  rfl

/-- A turn of agent C on a queue that holds a bit (R190). -/
theorem step_consumer_cons {s : State} {b : Bool} {rest : List Bool} {σ : List Turn} (hwf : s.cfg.WellFormed)
    (hq : s.q = b :: rest) (hσ : s.sched = .consumer :: σ) :
    step s = .next { s.headEffect b with q := rest, sched := σ, freeCount := s.freeCount + 1 } := by
  rw [step_consumer_turn hwf hσ]
  exact congrArg _ ((State.consumerEffect_cons (s := { s with sched := σ, freeCount := s.freeCount + 1 }) hq).trans
    (State.feed_with_queue [b] s rest σ (s.freeCount + 1)))

/-- Turns of agent C take the bits at the head of the queue, one each (R156, R190). -/
theorem State.runFor_feed (bits : List Bool) {s : State} {rest : List Bool} {σ : List Turn}
    (hwf : s.cfg.WellFormed) (hq : s.q = bits ++ rest)
    (hσ : s.sched = List.replicate bits.length Turn.consumer ++ σ) :
    s.runFor bits.length =
      .next { s.feed bits with q := rest, sched := σ, freeCount := s.freeCount + bits.length } := by
  induction bits generalizing s with
  | nil =>
    obtain rfl : s.q = rest := hq
    obtain rfl : s.sched = σ := hσ
    rfl
  | cons b bits ih =>
    have hstep := step_consumer_cons hwf hq hσ
    refine (State.runFor_succ hstep).trans ((ih ?_ rfl rfl).trans ?_)
    · rwa [State.headEffect_cfg]
    · rw [State.feed_with_queue, List.length_cons, Nat.add_assoc, Nat.add_comm 1]
      rfl

/-! The preamble (R134). -/

/-- R133: below its bound the saturating count is the sum. -/
theorem le_iterate_satInc_iff {w m : Nat} (hm : m ≤ 2 ^ w - 1) (n v : Nat) :
    m ≤ (satInc w)^[n] v ↔ m ≤ v + n := by
  induction n generalizing v with
  | zero => rfl
  | succ n ih =>
    rw [Function.iterate_succ_apply, ih, satInc]
    split <;> omega

theorem State.feed_ones (n : Nat) {s : State} (hp : s.phase = .seek) :
    s.feed (List.replicate n true) = { s with oneCount := (satInc s.cfg.cntW)^[n] s.oneCount } := by
  induction n generalizing s with
  | zero => rfl
  | succ n ih =>
    rw [List.replicate_succ, State.feed_cons, State.headEffect_seek hp, if_pos rfl, ih (s := s.countOne) hp]
    rfl

theorem State.feed_preambleBits (n : Nat) {s : State} (hp : s.phase = .seek) :
    s.feed (preambleBits n) = { s with oneCount := (satInc s.cfg.cntW)^[n] s.oneCount }.endRun := by
  rw [preambleBits, State.feed_append, State.feed_ones n hp]
  exact State.headEffect_seek hp

/-- Settles O27: up to the Zero the ones are counted; there the count decides, and saturation stays above
`PREAMBLE_MIN` (R6 (d)). -/
theorem preambleIsARunOfEnoughOnes : Obligations.PreambleIsARunOfEnoughOnes := by
  intro s n rest σ hwf hp hq hσ
  obtain ⟨-, -, -, ⟨-, hmin⟩, -⟩ := wellFormed_iff.1 hwf
  constructor
  · intro k hk
    obtain ⟨j, rfl⟩ := Nat.exists_eq_add_of_le hk
    have hrun := State.runFor_feed (List.replicate k true) (s := s) (rest := List.replicate j true ++ false :: rest)
      (σ := List.replicate (j + 1) Turn.consumer ++ σ) hwf
      (by rw [hq, List.replicate_add, List.append_assoc])
      (by rw [hσ, List.length_replicate, Nat.add_assoc, List.replicate_add, List.append_assoc])
    rw [List.length_replicate] at hrun
    exact ⟨_, hrun, by rw [State.feed_ones k hp]; exact hp⟩
  · have hlen : (preambleBits n).length = n + 1 := by simp [preambleBits]
    have hrun := State.runFor_feed (preambleBits n) (s := s) (rest := rest) (σ := σ) hwf
      (by rw [hq, preambleBits, List.append_assoc]; rfl) (by rw [hσ, hlen])
    rw [hlen, State.feed_preambleBits n hp] at hrun
    have hcount := le_iterate_satInc_iff hmin n s.oneCount
    refine ⟨_, hrun, rfl, rfl, ?_⟩
    rcases State.endRun_cases { s with oneCount := (satInc s.cfg.cntW)^[n] s.oneCount } with ⟨hhit, e⟩ | ⟨hmiss, e⟩ <;>
      rw [e]
    · exact ⟨rfl, iff_of_true rfl (hcount.1 hhit), rfl, rfl, rfl, rfl, rfl, rfl, rfl, rfl, rfl⟩
    · exact ⟨rfl, iff_of_false (by simp [hp]) (mt hcount.2 hmiss.not_ge), rfl, rfl, rfl, rfl, rfl, rfl, rfl, rfl, rfl⟩

/-! The frame (R156). -/

/-- Data bits within a group (R150). -/
theorem State.feed_dataBits (bits : List Bool) {s : State} (hp : s.phase = .frame)
    (hl : s.bitCnt.val + bits.length < 9) :
    s.feed bits =
      { s with acc := bits.foldl shiftIn s.acc, bitCnt := ⟨s.bitCnt.val + bits.length, hl⟩ } := by
  induction bits generalizing s with
  | nil => rfl
  | cons b bits ih =>
    rw [List.length_cons] at hl
    have hl8 : s.bitCnt.val < 8 := by omega
    have hnext := nextBitCnt_val hl8
    have hl' : (s.shiftBit b).bitCnt.val + bits.length < 9 := by
      rw [State.shiftBit_bitCnt]
      omega
    rw [State.feed_cons, State.headEffect_shift hp hl8.ne, ih (s := s.shiftBit b) hp hl']
    simp [State.shiftBit, hnext, Nat.add_assoc, Nat.add_comm 1]

/-- A group: the byte is complete when its flag is read (R55, R150). -/
theorem State.feed_groupBits (v : Byte) (f : Bool) {s : State} (hp : s.phase = .frame) (hl : s.bitCnt = 0) :
    s.feed (groupBits v f) = { s with acc := v, bitCnt := 8 }.headEffect f := by
  have hl9 : s.bitCnt.val + (byteBits v).length < 9 := by simp [hl, byteBits]
  have h8 : (⟨s.bitCnt.val + (byteBits v).length, hl9⟩ : Fin 9) = 8 := Fin.ext (by simp [hl, byteBits])
  rw [groupBits, State.feed_append, State.feed_dataBits (byteBits v) hp hl9, foldl_shiftIn_byteBits, h8]
  rfl

/-- The groups of the bytes still to come complete the packet, which is handed off (R152, R156, R173). -/
theorem State.feed_frameBits {bytes : List Byte} {s : State} (hne : bytes ≠ []) (hp : s.phase = .frame)
    (hl : s.bitCnt = 0) (hmin : s.cfg.minPacketLen ≤ s.pkt.length + bytes.length)
    (hmax : s.pkt.length + bytes.length ≤ s.cfg.pktMaxBytes) :
    s.feed (frameBits bytes) =
      (s.emit (s.pkt ++ bytes) (decide (bytes.foldl (· ^^^ ·) s.xorAcc = 0x00#8))).decodeReset := by
  induction bytes using frameBits.induct generalizing s with
  | case1 => exact absurd rfl hne
  | case2 v =>
    rw [frameBits, State.feed_groupBits v true hp hl,
      State.headEffect_of_lengthOk (s := { s with acc := v, bitCnt := 8 }) hp rfl hmax hmin]
    rfl
  | case3 v w rest ih =>
    have hroom : s.pkt.length < s.cfg.pktMaxBytes := by
      simp only [List.length_cons] at hmax
      omega
    have hgroup : s.feed (groupBits v false) = State.appendByte { s with acc := v, bitCnt := 8 } := by
      rw [State.feed_groupBits v false hp hl, State.headEffect_flag (s := { s with acc := v, bitCnt := 8 }) hp rfl]
      exact State.flagZero_of_room (s := { s with acc := v, bitCnt := 8 }) hroom
    rw [frameBits, State.feed_append, hgroup,
      ih (s := State.appendByte { s with acc := v, bitCnt := 8 }) (by simp) hp rfl]
    · rw [List.append_cons s.pkt v (w :: rest)]
      rfl
    · simpa [Nat.add_assoc, Nat.add_comm 1] using hmin
    · simpa [Nat.add_assoc, Nat.add_comm 1] using hmax

/-! The packet (R177). -/

theorem State.decodeReset_of_initial {s : State} (h : s.decodeState = .initial) : s.decodeReset = s := by
  cases s
  cases h
  rfl

/-- The bits of a packet, taken from `DS0`, emit that packet and return to `DS0`; nothing else changes. -/
theorem State.feed_packetBits {n : Nat} {bytes : List Byte} {s : State} (hwf : s.cfg.WellFormed)
    (hinit : s.decodeState = .initial) (hn : s.cfg.preambleMin ≤ n) (hne : bytes ≠ [])
    (hmin : s.cfg.minPacketLen ≤ bytes.length) (hmax : bytes.length ≤ s.cfg.pktMaxBytes) :
    s.feed (packetBits n bytes) = s.emit bytes (decide (xorBytes bytes = 0x00#8)) := by
  obtain ⟨hp, -, hbit, -, hpkt, hxor⟩ := DecodeState.mk.inj hinit
  obtain ⟨-, -, -, ⟨-, hpre⟩, -⟩ := wellFormed_iff.1 hwf
  have hhit : s.cfg.preambleMin ≤ (satInc s.cfg.cntW)^[n] s.oneCount :=
    (le_iterate_satInc_iff hpre n s.oneCount).2 (by omega)
  have hframe := State.feed_frameBits (s := { s with phase := .frame, oneCount := 0 }) hne rfl hbit
    (by simpa [hpkt] using hmin) (by simpa [hpkt] using hmax)
  rw [packetBits, State.feed_append, State.feed_preambleBits n hp, State.endRun_of_hit hhit, hframe]
  change s.decodeReset.emit (s.pkt ++ bytes) (decide (bytes.foldl (· ^^^ ·) s.xorAcc = 0x00#8)) = _
  rw [State.decodeReset_of_initial hinit, hpkt, hxor]
  rfl

theorem frameBits_length (bytes : List Byte) : (frameBits bytes).length = 9 * bytes.length := by
  induction bytes using frameBits.induct with
  | case1 => rfl
  | case2 v => rfl
  | case3 v w rest ih =>
    rw [frameBits, List.length_append, ih]
    simp only [groupBits, byteBits, List.length_append, List.length_cons, List.length_nil]
    omega

theorem packetBits_length (n : Nat) (bytes : List Byte) :
    (packetBits n bytes).length = n + 1 + 9 * bytes.length := by
  rw [packetBits, List.length_append, frameBits_length]
  simp [preambleBits]

/-- Settles O50: as many turns of agent C as the packet has bits take exactly these bits. -/
theorem packetBitsDecodeToThePacket : Obligations.PacketBitsDecodeToThePacket := by
  intro s n bytes rest σ hwf hinit hn hne hmin hmax hq hσ
  have hrun := State.runFor_feed (packetBits n bytes) hwf hq (by rwa [packetBits_length])
  rw [packetBits_length, State.feed_packetBits hwf hinit hn hne hmin hmax] at hrun
  exact ⟨_, hrun⟩

/-- Settles O51: the first packet leaves `DS0`, from which the bits of the second are taken. -/
theorem backToBackPacketsDecode : Obligations.BackToBackPacketsDecode := by
  intro s n₁ n₂ a b rest σ hwf hinit hn₁ hn₂ hne₁ hne₂ hmin₁ hmin₂ hmax₁ hmax₂ hq hσ
  have hlen : (packetBits n₁ a ++ packetBits n₂ b).length = n₁ + n₂ + 2 + 9 * (a.length + b.length) := by
    rw [List.length_append, packetBits_length, packetBits_length]
    omega
  have hrun := State.runFor_feed (packetBits n₁ a ++ packetBits n₂ b) hwf hq (by rwa [hlen])
  rw [hlen, State.feed_append, State.feed_packetBits hwf hinit hn₁ hne₁ hmin₁ hmax₁,
    State.feed_packetBits (s := s.emit a _) hwf hinit hn₂ hne₂ hmin₂ hmax₂] at hrun
  exact ⟨_, hrun, rfl, hinit, rfl, by simp⟩

end Sys2Proof.Machine
end

section
/-! PROOFS. Runs under a schedule without end (R192): what a turn of each agent does in a run, the next turn of agent C
under a fair schedule, and what such a run comes to.
-/

namespace Sys2Proof.Machine

/-! Agent C's part of a state. -/

/-- What agent C's operations read and write beside the queue and its notes: the decode state, `pkt_ovf` and `out`,
under the configuration (R20). -/
def State.consumerPart (s : State) : Config × DecodeState × Bool × List Packet :=
  (s.cfg, s.decodeState, s.pktOvf, s.out)

theorem State.consumerPart_eq_iff {s t : State} :
    s.consumerPart = t.consumerPart ↔
      s.cfg = t.cfg ∧ s.decodeState = t.decodeState ∧ s.pktOvf = t.pktOvf ∧ s.out = t.out := by
  simp [State.consumerPart]

/-- A state in which agent C's part of another is put, the notes its own. -/
theorem State.withRest_eq_of_consumerPart {s t : State} (h : s.consumerPart = t.consumerPart) :
    s.unnoted.withRest t = t := by
  obtain ⟨hcfg, hdec, hovf, hout⟩ := State.consumerPart_eq_iff.1 h
  obtain ⟨hp, hcount, hbit, hacc, hpkt, hxor⟩ := DecodeState.mk.inj hdec
  simp [State.withRest, State.unnoted, hcfg, hp, hcount, hbit, hacc, hpkt, hxor, hovf, hout]

/-- Agent C makes the same of the same bits where its own part is the same. -/
theorem State.feed_consumerPart {s t : State} (h : s.consumerPart = t.consumerPart) (bits : List Bool) :
    (s.feed bits).consumerPart = (t.feed bits).consumerPart := by
  rw [← State.withRest_eq_of_consumerPart h, State.feed_withRest, s.feed_eq_withRest bits]
  rfl

theorem State.consumerEffect_consumerPart_nil {s : State} (hq : s.q = []) :
    s.consumerEffect.consumerPart = s.consumerPart := by
  rw [State.consumerEffect_nil hq]
  rfl

theorem State.consumerEffect_consumerPart_cons {s : State} {b : Bool} {rest : List Bool} (hq : s.q = b :: rest) :
    s.consumerEffect.consumerPart = (s.feed [b]).consumerPart := by
  rw [State.consumerEffect_cons hq]
  exact State.feed_consumerPart (s := { s with q := rest }) (t := s) rfl [b]

@[simp] theorem producerEffect_consumerPart (p : Instr) (s : State) :
    (producerEffect p s).consumerPart = s.consumerPart := by
  rw [producerEffect_frame]
  rfl

/-! One turn of a run. -/

section
variable {s : State} {σ : Schedule}

theorem State.Inv.runUnder_succ_consumer (h : s.Inv) {k : Nat} (hturn : σ k = .consumer) :
    s.runUnder σ (k + 1) =
      { (s.runUnder σ k).consumerEffect with freeCount := (s.runUnder σ k).freeCount + 1 } := by
  have hk := h.runUnder σ k
  have hstep := hk.step_runUnder
  rw [hturn, step_of_consumer (s := (s.runUnder σ k).inTurn .consumer) hk.config rfl] at hstep
  injection hstep with e
  rw [← e]
  refine (State.consumerEffect_with_source (s.runUnder σ k) (s.runUnder σ k).events
    ((s.runUnder σ k).freeCount + 1)).trans ?_
  rw [← (s.runUnder σ k).consumerEffect_events]

theorem State.Inv.runUnder_succ_producer (h : s.Inv) {k : Nat} {p : Instr} (hturn : σ k = .producer)
    (hdec : decode (s.runUnder σ k).cfg.tsW (.ev (s.runUnder σ k).evPort) = .ok p) :
    s.runUnder σ (k + 1) = producerEffect p ((s.runUnder σ k).inTurn .producer).afterFetch := by
  have hk := h.runUnder σ k
  have hstep := hk.step_runUnder
  rw [hturn, step_of_producer (s := (s.runUnder σ k).inTurn .producer) hk.config rfl hdec] at hstep
  injection hstep with e
  exact e.symm

/-- While agent P has the turns, agent C's part stays and the queue only grows (R20, R50). -/
theorem State.Inv.runUnder_producers (h : s.Inv) {n k : Nat} (hnk : n ≤ k)
    (hturns : ∀ j, n ≤ j → j < k → σ j = .producer) :
    (s.runUnder σ k).consumerPart = (s.runUnder σ n).consumerPart ∧
      (s.runUnder σ n).q <+: (s.runUnder σ k).q := by
  induction k, hnk using Nat.le_induction with
  | base => exact ⟨rfl, List.prefix_rfl⟩
  | succ k hnk ih =>
    obtain ⟨hpart, hprefix⟩ := ih fun j hj hjk => hturns j hj (Nat.lt_succ_of_lt hjk)
    obtain ⟨p, hdec⟩ := (h.runUnder σ k).decode_evPort
    rw [h.runUnder_succ_producer (hturns k hnk (Nat.lt_succ_self k)) hdec]
    refine ⟨(producerEffect_consumerPart p _).trans hpart, hprefix.trans ?_⟩
    rcases producerEffect_q_cases p ((s.runUnder σ k).inTurn .producer).afterFetch with hq | ⟨b, hq⟩
    · rw [hq]
      exact List.prefix_rfl
    · exact ⟨[b], hq.symm⟩

/-! Fair schedules. -/

/-- Under a fair schedule without a reset agent C has a next turn, and before it the turns are agent P's (R192). -/
theorem Schedule.Fair.next_consumer (hfair : σ.Fair) (hfree : σ.ResetFree) (n : Nat) :
    ∃ k, n ≤ k ∧ σ k = .consumer ∧ ∀ j, n ≤ j → j < k → σ j = .producer := by
  obtain ⟨hnk, hturn⟩ := Nat.find_spec (hfair n)
  refine ⟨Nat.find (hfair n), hnk, hturn, fun j hnj hj => ?_⟩
  cases hjt : σ j with
  | reset => exact absurd hjt (hfree j)
  | producer => rfl
  | consumer => exact absurd ⟨hnj, hjt⟩ (Nat.find_min (hfair n) hj)

/-- Agent C takes a waiting sequence of bits, whatever agent P does meanwhile (R192). -/
theorem State.Inv.fairRun_feeds (h : s.Inv) (hfair : σ.Fair) (hfree : σ.ResetFree) (bits rest : List Bool) (n : Nat)
    (hq : bits ++ rest <+: (s.runUnder σ n).q) :
    ∃ k, n ≤ k ∧ (s.runUnder σ k).consumerPart = ((s.runUnder σ n).feed bits).consumerPart ∧
      rest <+: (s.runUnder σ k).q := by
  induction bits generalizing n with
  | nil => exact ⟨n, le_rfl, rfl, hq⟩
  | cons b bits ih =>
    obtain ⟨k, hnk, hturn, hbefore⟩ := hfair.next_consumer hfree n
    obtain ⟨hpart, hprefix⟩ := h.runUnder_producers hnk hbefore
    obtain ⟨more, hmore⟩ := hq.trans hprefix
    have hqk : (s.runUnder σ k).q = b :: (bits ++ rest ++ more) := hmore.symm
    have hsucc := h.runUnder_succ_consumer hturn
    have hqs : (s.runUnder σ (k + 1)).q = bits ++ rest ++ more := by
      rw [hsucc]
      exact (State.consumerEffect_q _).trans (congrArg List.tail hqk)
    have hparts : (s.runUnder σ (k + 1)).consumerPart = ((s.runUnder σ n).feed [b]).consumerPart := by
      rw [hsucc]
      exact (State.consumerEffect_consumerPart_cons hqk).trans (State.feed_consumerPart hpart [b])
    obtain ⟨m, hkm, hm, hrest⟩ := ih (k + 1) ⟨more, hqs.symm⟩
    exact ⟨m, by omega, hm.trans (State.feed_consumerPart hparts bits), hrest⟩

/-- Settles O54: up to agent C's next turn the queue grows behind the bit, and that turn pops it. -/
theorem fairRunTakesTheHeadBit : Obligations.FairRunTakesTheHeadBit := by
  intro s σ h hfair hfree n b rest hq
  obtain ⟨k, hnk, hturn, hbefore⟩ := hfair.next_consumer hfree n
  have waits {j : Nat} (hnj : n ≤ j) (hjk : j ≤ k) : b :: rest <+: (s.runUnder σ j).q := by
    rw [← hq]
    exact (h.runUnder_producers hnj fun i hni hij => hbefore i hni (hij.trans_le hjk)).2
  obtain ⟨more, hmore⟩ := waits hnk le_rfl
  have hpop : (s.runUnder σ (k + 1)).q = rest ++ more := by
    rw [h.runUnder_succ_consumer hturn]
    exact (State.consumerEffect_q _).trans (congrArg List.tail hmore.symm)
  refine ⟨k, hnk, hturn, fun j hnj hjk => ?_, fun j => waits, ⟨more, hpop.symm⟩, ?_⟩
  · rw [hbefore j hnj hjk]
    decide
  · rw [hpop, ← hmore]
    rfl

/-- Settles O56: the waiting bits are taken, and from `DS0` they make that packet. -/
theorem fairRunEmitsThePacket : Obligations.FairRunEmitsThePacket := by
  intro s σ n bytes rest h hfair hfree hinit hn hne hmin hmax hq
  obtain ⟨k, -, hpart, hrest⟩ := h.fairRun_feeds hfair hfree (packetBits n bytes) rest 0 (by rw [← hq]; rfl)
  rw [State.runUnder_zero, State.feed_packetBits h.config hinit hn hne hmin hmax] at hpart
  obtain ⟨-, hdec, -, hout⟩ := State.consumerPart_eq_iff.1 hpart
  exact ⟨k, hout, hdec.trans hinit, hrest⟩

/-! Quiescence (R197). -/

/-- The source presents no event again: it only loses words. -/
theorem State.Inv.runUnder_events_nil (h : s.Inv) {n k : Nat} (hnk : n ≤ k) (hev : (s.runUnder σ n).events = []) :
    (s.runUnder σ k).events = [] := by
  induction k, hnk using Nat.le_induction with
  | base => exact hev
  | succ k _ ih =>
    obtain ⟨i, -, hexec⟩ := step_next.1 (h.runUnder σ k).step_runUnder
    obtain ⟨-, hevents, -⟩ := agentsWriteTheirOwnState i _ _ hexec
    rw [hevents, State.afterFetch_events, State.inTurn_events, ih]
    exact ite_self []

/-- A run that is quiescent stays so, and the block's registers, flags and output stay as they are. -/
theorem State.Inv.runUnder_of_quiescent (h : s.Inv) (hfree : σ.ResetFree) {k j : Nat} (hkj : k ≤ j)
    (hquiet : (s.runUnder σ k).Quiescent) :
    (s.runUnder σ j).Quiescent ∧ (s.runUnder σ j).decodeState = (s.runUnder σ k).decodeState ∧
      (s.runUnder σ j).observed = (s.runUnder σ k).observed ∧
      (s.runUnder σ j).lastRise = (s.runUnder σ k).lastRise ∧
      (s.runUnder σ j).riseValid = (s.runUnder σ k).riseValid := by
  induction j, hkj using Nat.le_induction with
  | base => exact ⟨hquiet, rfl, rfl, rfl, rfl⟩
  | succ j _ ih =>
    have hquietj := ih.1
    obtain ⟨hconsumer, hproducer⟩ := quiescentStateIsFinal ((s.runUnder σ j).inTurn (σ j)) (s.runUnder σ j).sched
      (h.runUnder σ j).config hquietj
    cases hturn : σ j with
    | reset => exact absurd hturn (hfree j)
    | producer =>
      rw [State.runUnder_succ (hproducer (congrArg (· :: _) hturn))]
      exact ih
    | consumer =>
      rw [State.runUnder_succ (hconsumer (congrArg (· :: _) hturn))]
      exact ih

/-- Once the source has presented its last event the queue does not grow (R197). -/
theorem State.Inv.runUnder_q_length_le (h : s.Inv) (hfree : σ.ResetFree) {n k : Nat} (hnk : n ≤ k)
    (hev : (s.runUnder σ n).events = []) : (s.runUnder σ k).q.length ≤ (s.runUnder σ n).q.length := by
  induction k, hnk using Nat.le_induction with
  | base => exact le_rfl
  | succ k hnk ih =>
    have hstep := (h.runUnder σ k).step_runUnder
    obtain ⟨hle, -⟩ := stepsApproachQuiescence ((s.runUnder σ k).inTurn (σ k)) _ (hfree k) hstep
    rw [State.inTurn_events, State.inTurn_q, h.runUnder_events_nil hnk hev,
      h.runUnder_events_nil (hnk.trans k.le_succ) hev] at hle
    simp only [List.length_nil, Nat.mul_zero, Nat.zero_add] at hle
    exact hle.trans ih

/-- Each turn of agent C shortens the queue, until it is empty (R192, R197). -/
theorem State.Inv.fairRun_reaches_quiescence (h : s.Inv) (hfair : σ.Fair) (hfree : σ.ResetFree) {n : Nat}
    (hev : (s.runUnder σ n).events = []) : ∃ k, n ≤ k ∧ (s.runUnder σ k).Quiescent := by
  induction hm : (s.runUnder σ n).q.length using Nat.strong_induction_on generalizing n with
  | _ m ih =>
    cases hq : (s.runUnder σ n).q with
    | nil => exact ⟨n, le_rfl, hev, hq⟩
    | cons b rest =>
      obtain ⟨k, hnk, hturn, -⟩ := hfair.next_consumer hfree n
      have hle := h.runUnder_q_length_le hfree hnk hev
      have hpop : (s.runUnder σ (k + 1)).q = (s.runUnder σ k).q.tail := by
        rw [h.runUnder_succ_consumer hturn]
        exact State.consumerEffect_q _
      have hlt : (s.runUnder σ (k + 1)).q.length < m := by
        rw [hq, List.length_cons] at hle hm
        rw [hpop, List.length_tail]
        omega
      obtain ⟨j, hkj, hquiet⟩ := ih _ hlt (h.runUnder_events_nil (hnk.trans k.le_succ) hev) rfl
      exact ⟨j, (hnk.trans k.le_succ).trans hkj, hquiet⟩

end

/-- Settles O55: the queue empties, and a quiescent run stays as it is. -/
theorem fairRunBecomesQuiescent : Obligations.FairRunBecomesQuiescent := by
  intro s σ h hfair hfree n hev
  obtain ⟨k, hnk, hquiet⟩ := h.fairRun_reaches_quiescence hfair hfree hev
  exact ⟨k, hnk, fun j hkj => h.runUnder_of_quiescent hfree hkj hquiet⟩

end Sys2Proof.Machine
end

section
/-! PROOFS. The outcome of a state: what agent P makes of the words still to come and what agent C makes of the bits
queued and still to be offered. No step and no clock cycle that loses no bit changes it (R62, R116, R248).
-/

namespace Sys2Proof.Machine

/-! Agent P's part of a state, and the words it takes. -/

/-- What agent P's operations read and write beside the queue, under the configuration (R20). -/
def State.producerPart (s : State) : Config × Nat × Bool × Bool × List Anomaly :=
  (s.cfg, s.lastRise, s.riseValid, s.qOvf, s.pNotes)

theorem State.producerPart_eq_iff {s t : State} :
    s.producerPart = t.producerPart ↔
      s.cfg = t.cfg ∧ s.lastRise = t.lastRise ∧ s.riseValid = t.riseValid ∧ s.qOvf = t.qOvf ∧
        s.pNotes = t.pNotes := by
  simp [State.producerPart]

@[simp] theorem State.consumerEffect_producerPart (s : State) : s.consumerEffect.producerPart = s.producerPart := by
  simp [State.producerPart, State.consumerEffect_cfg]

/-- Agent P's operation loses no bit: it does what it does with an empty queue, behind the bits that wait. -/
def LosesNoBit (p : Instr) (s : State) : Prop :=
  producerEffect p s =
    s.withProducerPart (producerEffect p { s with q := [] }) (s.q ++ (producerEffect p { s with q := [] }).q)

/-- A bit is lost only to a full queue, with a rising edge pending, and then `q_ovf` is set (R51, R112). -/
theorem losesNoBit_or_overflow (p : Instr) {s : State} (hdepth : 1 ≤ s.cfg.qDepth) :
    LosesNoBit p s ∨
      (s.cfg.qDepth ≤ s.q.length ∧ s.riseValid = true ∧ (producerEffect p s).qOvf = true) := by
  rcases Nat.lt_or_ge s.q.length s.cfg.qDepth with hroom | hfull
  · exact .inl (producerEffect_withProducerPart p (s := { s with q := [] }) (c := s) rfl hdepth hroom)
  · cases p with
    | pFall u =>
      cases hv : s.riseValid with
      | false =>
        left
        rw [LosesNoBit, producerEffect, producerEffect, State.fall_of_not_riseValid u hv,
          State.fall_of_not_riseValid (s := { s with q := [] }) u hv, List.append_nil]
        rfl
      | true =>
        cases hb : classBit (classify s.cfg (delta s.cfg (tsOperand s.cfg u) s.lastRise)) with
        | some b =>
          right
          have hclass : classify s.cfg (delta s.cfg (tsOperand s.cfg u) s.lastRise) ≠ .invalid := fun hc => by
            rw [classBit_eq_none_iff.2 hc] at hb
            cases hb
          exact ⟨hfull, rfl, by rw [producerEffect, State.fall_of_full hv hclass hfull]⟩
        | none =>
          left
          have hc := classBit_eq_none_iff.1 hb
          rw [LosesNoBit, producerEffect, producerEffect, State.fall_of_invalid hv hc,
            State.fall_of_invalid (s := { s with q := [] }) hv hc, List.append_nil]
          rfl
    | _ => exact .inl (by simp [LosesNoBit, producerEffect, State.withProducerPart, State.rise])

/-- Agent P takes a word with an empty queue, so that the queue it leaves is what the word offers. -/
def State.takeWord (w : Nat) (s : State) : State :=
  match decode s.cfg.tsW (.ev w) with
  | .ok p => producerEffect p { s with q := [] }
  | .error _ => { s with q := [] }

theorem State.takeWord_of_decode {s : State} {w : Nat} {p : Instr} (h : decode s.cfg.tsW (.ev w) = .ok p) :
    s.takeWord w = producerEffect p { s with q := [] } := by
  rw [State.takeWord, h]

theorem State.takeWord_of_error {s : State} {w : Nat} {e : DecodeError} (h : decode s.cfg.tsW (.ev w) = .error e) :
    s.takeWord w = { s with q := [] } := by
  rw [State.takeWord, h]

/-- What a word offers and what it leaves of agent P's part depends on agent P's part alone (R116). -/
theorem State.takeWord_congr {s t : State} (hdepth : 1 ≤ s.cfg.qDepth) (h : s.producerPart = t.producerPart) (w : Nat) :
    (s.takeWord w).producerPart = (t.takeWord w).producerPart ∧ (s.takeWord w).q = (t.takeWord w).q := by
  obtain ⟨hcfg, hlast, hvalid, hovf, hnotes⟩ := State.producerPart_eq_iff.1 h
  have hown : { t with q := [] } = State.withProducerPart t { s with q := [] } [] := by
    simp [State.withProducerPart, hlast, hvalid, hovf, hnotes]
  cases hdec : decode s.cfg.tsW (.ev w) with
  | error e =>
    rw [State.takeWord_of_error hdec, State.takeWord_of_error (hcfg ▸ hdec)]
    exact ⟨h, rfl⟩
  | ok p =>
    rw [State.takeWord_of_decode hdec, State.takeWord_of_decode (hcfg ▸ hdec), hown,
      producerEffect_withProducerPart p (s := { s with q := [] }) (c := t) (q := [])
        hcfg.symm hdepth hdepth]
    refine ⟨?_, rfl⟩
    rw [State.producerPart_eq_iff, producerEffect_cfg]
    exact ⟨hcfg, rfl, rfl, rfl, rfl⟩

theorem State.takeWord_cfg (w : Nat) (s : State) : (s.takeWord w).cfg = s.cfg := by
  rw [State.takeWord]
  split
  · exact producerEffect_cfg _ _
  · rfl

/-- Where no bit is lost, agent P's operation leaves the part that the word leaves, and queues what it offers. -/
theorem producerEffect_takes {s u : State} {w : Nat} {p : Instr} (hdepth : 1 ≤ s.cfg.qDepth)
    (hdec : decode s.cfg.tsW (.ev w) = .ok p) (hp : u.producerPart = s.producerPart) (hkeeps : LosesNoBit p u) :
    (producerEffect p u).producerPart = (s.takeWord w).producerPart ∧
      (producerEffect p u).q = u.q ++ (s.takeWord w).q := by
  have hcfg : u.cfg = s.cfg := (State.producerPart_eq_iff.1 hp).1
  have hword : u.takeWord w = producerEffect p { u with q := [] } := State.takeWord_of_decode (hcfg ▸ hdec)
  obtain ⟨hpart, hoffer⟩ := State.takeWord_congr (hcfg ▸ hdepth) hp w
  rw [← hpart, ← hoffer, hword, hkeeps, State.producerPart_eq_iff, producerEffect_cfg]
  exact ⟨⟨rfl, rfl, rfl, rfl, rfl⟩, rfl⟩

/-- Agent P takes words, one after the other. -/
def State.takeWords (ws : List Nat) (s : State) : State := ws.foldl (fun u w => u.takeWord w) s

/-- The bits that words offer, in order. -/
def State.offers : List Nat → State → List Bool
  | [], _ => []
  | w :: ws, s => (s.takeWord w).q ++ State.offers ws (s.takeWord w)

theorem State.takeWords_congr (ws : List Nat) {s t : State} (hdepth : 1 ≤ s.cfg.qDepth)
    (h : s.producerPart = t.producerPart) :
    (s.takeWords ws).producerPart = (t.takeWords ws).producerPart ∧ s.offers ws = t.offers ws := by
  induction ws generalizing s t with
  | nil => exact ⟨h, rfl⟩
  | cons w ws ih =>
    obtain ⟨hpart, hq⟩ := State.takeWord_congr hdepth h w
    obtain ⟨hparts, hoffers⟩ := ih (by rwa [State.takeWord_cfg]) hpart
    exact ⟨hparts, by rw [State.offers, State.offers, hq, hoffers]⟩

/-! The outcome. -/

/-- Agent P's part after the words still to come, and agent C's part after the bits queued and offered by them. -/
def State.outcome (s : State) :
    (Config × Nat × Bool × Bool × List Anomaly) × (Config × DecodeState × Bool × List Packet) :=
  ((s.takeWords s.events).producerPart, (s.feed (s.q ++ s.offers s.events)).consumerPart)

theorem State.outcome_congr {s t : State} (hdepth : 1 ≤ s.cfg.qDepth) (hp : s.producerPart = t.producerPart)
    (hc : s.consumerPart = t.consumerPart) (hq : s.q = t.q) (hev : s.events = t.events) : s.outcome = t.outcome := by
  obtain ⟨hparts, hoffers⟩ := State.takeWords_congr s.events hdepth hp
  rw [State.outcome, State.outcome, ← hev, ← hq, ← hoffers, hparts, State.feed_consumerPart hc]

/-- A quiescent state is its own outcome (R197). -/
theorem State.outcome_of_quiescent {s : State} (h : s.Quiescent) : s.outcome = (s.producerPart, s.consumerPart) := by
  obtain ⟨hev, hq⟩ := h
  rw [State.outcome, hev, hq]
  rfl

/-- Agent C takes the head of the bits it will be fed anyway. -/
theorem State.outcome_consumerEffect {s : State} (hdepth : 1 ≤ s.cfg.qDepth) : s.consumerEffect.outcome = s.outcome := by
  cases hq : s.q with
  | nil =>
    exact State.outcome_congr (by rwa [State.consumerEffect_cfg]) s.consumerEffect_producerPart
      (State.consumerEffect_consumerPart_nil hq) (by rw [State.consumerEffect_q, hq]; rfl) s.consumerEffect_events
  | cons b rest =>
    obtain ⟨hparts, hoffers⟩ := State.takeWords_congr s.events (by rwa [State.consumerEffect_cfg])
      s.consumerEffect_producerPart
    have hfeed := State.feed_consumerPart (State.consumerEffect_consumerPart_cons hq) (rest ++ s.offers s.events)
    rw [State.outcome, State.outcome, State.consumerEffect_events, State.consumerEffect_q, hparts, hoffers, hq]
    exact congrArg _ hfeed

/-- Agent P takes the word that it will take anyway, and queues what it offers. -/
theorem State.outcome_producerEffect {s u : State} {p : Instr} (hdepth : 1 ≤ s.cfg.qDepth)
    (hdec : decode s.cfg.tsW (.ev s.evPort) = .ok p) (hp : u.producerPart = s.producerPart)
    (hc : u.consumerPart = s.consumerPart) (hq : u.q = s.q) (hev : u.events = s.events.tail) (hkeeps : LosesNoBit p u) :
    (producerEffect p u).outcome = s.outcome := by
  have hcfg : u.cfg = s.cfg := (State.producerPart_eq_iff.1 hp).1
  cases hevs : s.events with
  | nil =>
    obtain rfl := eq_pIdle_of_decode_evPort_nil hevs hdec
    exact State.outcome_congr (hcfg ▸ hdepth) hp hc hq (hev.trans (by rw [hevs]; rfl))
  | cons w ws =>
    have hport : s.evPort = w := by rw [State.evPort, hevs]; rfl
    obtain ⟨hparts, hqueue⟩ := producerEffect_takes hdepth (hport ▸ hdec) hp hkeeps
    obtain ⟨hafter, hoffers⟩ := State.takeWords_congr ws (s := producerEffect p u)
      (by rwa [producerEffect_cfg, hcfg]) hparts
    rw [State.outcome, State.outcome, producerEffect_events, hev, hevs, List.tail_cons, hafter, hqueue, hq, hoffers,
      List.append_assoc]
    exact congrArg _ (State.feed_consumerPart ((producerEffect_consumerPart p u).trans hc) _)

end Sys2Proof.Machine
end

section
/-! PROOFS. What leaves the outcome of a state unchanged: the steps of a finite run without an overflow (R62), and the
clock cycles (R248); with it the round trip of a train of pulses (R177).
-/

namespace Sys2Proof.Machine

/-! Finite runs of the interleaving. -/

/-- Agent P does not clear `q_ovf` (R24). -/
theorem producerEffect_qOvf_of_qOvf (p : Instr) {s : State} (h : s.qOvf = true) : (producerEffect p s).qOvf = true := by
  cases p with
  | pFall u => exact (s.fall_qOvf_iff u).2 (.inl h)
  | _ => exact h

/-- No step but a reset clears `q_ovf` (R24). -/
theorem qOvf_of_step {s t : State} (hturn : s.turn ≠ .reset) (h : step s = .next t) (hovf : s.qOvf = true) :
    t.qOvf = true := by
  obtain ⟨-, ⟨hreset, -⟩ | ⟨-, p, -, rfl⟩ | ⟨-, rfl⟩⟩ := step_cases h
  · exact absurd hreset hturn
  · exact producerEffect_qOvf_of_qOvf p (s := s.afterFetch) hovf
  · exact s.afterFetch.consumerEffect_qOvf.trans hovf

/-- A step that loses no bit does not change the outcome (R62). -/
theorem step_outcome {s t : State} (hturn : s.turn ≠ .reset) (h : step s = .next t) (hovf : t.qOvf = false) :
    t.outcome = s.outcome := by
  obtain ⟨hwf, ⟨hreset, -⟩ | ⟨hp, p, hdec, rfl⟩ | ⟨hc, rfl⟩⟩ := step_cases h
  · exact absurd hreset hturn
  · have hkeeps : LosesNoBit p s.afterFetch := by
      rcases losesNoBit_or_overflow p (s := s.afterFetch) (qDepth_pos hwf) with hkeeps | ⟨-, -, hlost⟩
      · exact hkeeps
      · rw [hlost] at hovf
        cases hovf
    exact State.outcome_producerEffect (qDepth_pos hwf) hdec rfl rfl rfl (by simp [hp]) hkeeps
  · have hev : s.afterFetch.events = s.events := by simp [hc]
    exact (State.outcome_consumerEffect (s := s.afterFetch) (qDepth_pos hwf)).trans
      (State.outcome_congr (s := s.afterFetch) (qDepth_pos hwf) rfl rfl rfl hev)

/-- A step uses up the turn (R191). -/
theorem sched_of_step {s t : State} (h : step s = .next t) : t.sched = s.sched.tail := by
  obtain ⟨i, -, hexec⟩ := step_next.1 h
  obtain ⟨-, -, hsched, -⟩ := agentsWriteTheirOwnState i _ _ hexec
  exact hsched

/-- A finite run without a reset and without an overflow does not change the outcome (R62). -/
theorem State.runFor_outcome {σ : List Turn} {s t : State} (hσ : s.sched = σ) (hfree : .reset ∉ σ)
    (hrun : s.runFor σ.length = .next t) (hovf : t.qOvf = false) : t.outcome = s.outcome ∧ s.qOvf = false := by
  induction σ generalizing s with
  | nil =>
    injection hrun with e
    exact ⟨congrArg _ e.symm, e ▸ hovf⟩
  | cons x σ ih =>
    have hturn : s.turn ≠ .reset := by
      rw [State.turn_of_sched hσ]
      exact fun hx => hfree (by simp [hx])
    cases hstep : step s with
    | next u =>
      rw [List.length_cons, State.runFor_succ hstep] at hrun
      obtain ⟨hout, hu⟩ := ih (by rw [sched_of_step hstep, hσ]; rfl) (fun hx => hfree (.tail _ hx)) hrun
      refine ⟨hout.trans (step_outcome hturn hstep hu), ?_⟩
      by_contra hs
      rw [qOvf_of_step hturn hstep (by simpa using hs)] at hu
      cases hu
    | fault f => cases f
    | refused r =>
      rw [List.length_cons, State.runFor, hstep] at hrun
      cases hrun

theorem State.wellFormed_of_runFor_succ {s t : State} {k : Nat} (h : s.runFor (k + 1) = .next t) :
    s.cfg.WellFormed := by
  cases hstep : step s with
  | next u => exact (step_cases hstep).1
  | fault f => cases f
  | refused r =>
    rw [State.runFor, hstep] at h
    cases h

/-- The outcome does not depend on the turns to come, where a step can be taken at all. -/
theorem State.outcome_with_sched {s : State} (hwf : s.cfg.WellFormed) (σ₁ σ₂ : List Turn) :
    { s with sched := σ₁ }.outcome = { s with sched := σ₂ }.outcome :=
  State.outcome_congr (s := { s with sched := σ₁ }) (t := { s with sched := σ₂ }) (qDepth_pos hwf) rfl rfl rfl rfl

/-- Settles O47: both runs keep the outcome of the common state, and a quiescent state is its own outcome. Under an
ill-formed configuration no step is taken. -/
theorem quiescentResultIsScheduleIndependent : Obligations.QuiescentResultIsScheduleIndependent := by
  intro s t₁ t₂ σ₁ σ₂ hfree₁ hfree₂ hrun₁ hrun₂ hquiet₁ hquiet₂ hovf₁ hovf₂
  have hsame : (t₁.producerPart, t₁.consumerPart) = (t₂.producerPart, t₂.consumerPart) := by
    by_cases hwf : s.cfg.WellFormed
    · obtain ⟨hout₁, -⟩ := State.runFor_outcome (s := { s with sched := σ₁ }) rfl hfree₁ hrun₁ hovf₁
      obtain ⟨hout₂, -⟩ := State.runFor_outcome (s := { s with sched := σ₂ }) rfl hfree₂ hrun₂ hovf₂
      rw [← State.outcome_of_quiescent hquiet₁, ← State.outcome_of_quiescent hquiet₂, hout₁, hout₂]
      exact State.outcome_with_sched hwf σ₁ σ₂
    · have unchanged {σ : List Turn} {t : State} (hrun : { s with sched := σ }.runFor σ.length = .next t) :
          (t.producerPart, t.consumerPart) = (s.producerPart, s.consumerPart) := by
        cases σ with
        | nil =>
          injection hrun with e
          rw [← e]
          rfl
        | cons x σ => exact absurd (State.wellFormed_of_runFor_succ hrun) hwf
      rw [unchanged hrun₁, unchanged hrun₂]
  obtain ⟨hp, hc⟩ := Prod.mk.inj hsame
  obtain ⟨-, hlast, hvalid, -, hnotes⟩ := State.producerPart_eq_iff.1 hp
  obtain ⟨-, hdec, hovf, hout⟩ := State.consumerPart_eq_iff.1 hc
  exact ⟨hdec, hovf, hout, hlast, hvalid, hnotes⟩

/-! Clock cycles (R248). -/

/-- What agent P leaves on an empty queue: one bit at most, and none while a rising edge is pending. -/
theorem producerEffect_atMostOneBit (p : Instr) {s : State} (hq : s.q = []) : (producerEffect p s).AtMostOneBit := by
  cases p with
  | pFall u =>
    rcases s.fall_cases u with ⟨-, e⟩ | ⟨-, b, -, ⟨-, e⟩ | ⟨-, e⟩⟩ | ⟨-, -, e⟩ <;>
      simp [State.AtMostOneBit, producerEffect, e, hq]
  | _ => simp [State.AtMostOneBit, producerEffect, hq]

/-- With room in the queue agent P leaves `q_ovf` as it is (R24, R51). -/
theorem producerEffect_qOvf_of_room (p : Instr) {s : State} (hroom : s.q.length < s.cfg.qDepth) :
    (producerEffect p s).qOvf = s.qOvf := by
  cases p with
  | pFall u =>
    rcases s.fall_cases u with ⟨-, e⟩ | ⟨-, b, -, ⟨-, e⟩ | ⟨hfull, e⟩⟩ | ⟨-, -, e⟩
    case inr.inl.inr => exact absurd hroom hfull.not_gt
    all_goals rw [producerEffect, e]
  | _ => rfl

/-- Agent C's turn leaves no bit of one. -/
theorem State.consumerEffect_q_of_atMostOneBit {s : State} (h : s.q.length ≤ 1) : s.consumerEffect.q = [] := by
  rw [State.consumerEffect_q]
  exact List.eq_nil_of_length_eq_zero (by rw [List.length_tail]; omega)

/-- The bit that waits at the start of a cycle is popped in it, and a cycle that begins with none keeps the one that is
pushed; no bit is lost (R248). -/
theorem State.cycleEffect_of_atMostOneBit {s : State} {p : Instr} (hwf : s.cfg.WellFormed) (h : s.AtMostOneBit)
    (hdec : decode s.cfg.tsW (.ev s.evPort) = .ok p) :
    (s.cycleEffect p).AtMostOneBit ∧ (s.cycleEffect p).qOvf = s.qOvf ∧ (s.cycleEffect p).outcome = s.outcome := by
  obtain ⟨hlen, hpending⟩ := h
  have hdepth := qDepth_pos hwf
  unfold State.cycleEffect
  split_ifs with hq
  · have hcfg : s.cycleStart.consumerEffect.cfg = s.cfg := State.consumerEffect_cfg _
    have hqc : s.cycleStart.consumerEffect.q = [] := State.consumerEffect_q_of_atMostOneBit hlen
    have hroom : s.cycleStart.consumerEffect.q.length < s.cycleStart.consumerEffect.cfg.qDepth := by
      rw [hqc, hcfg]
      exact hdepth
    have hkeeps : LosesNoBit p s.cycleStart.consumerEffect :=
      (losesNoBit_or_overflow p (by rwa [hcfg])).resolve_right fun ⟨hfull, _⟩ => absurd hroom hfull.not_gt
    refine ⟨producerEffect_atMostOneBit p hqc, ?_, ?_⟩
    · rw [producerEffect_qOvf_of_room p hroom, State.consumerEffect_qOvf, State.cycleStart_qOvf]
    · exact State.outcome_producerEffect hdepth hdec (State.consumerEffect_producerPart _)
        (State.consumerEffect_consumerPart_nil (s := s.cycleStart) hq) (hqc.trans hq.symm)
        (State.consumerEffect_events _) hkeeps
  · have hv : s.riseValid = false := by
      by_contra hv
      exact hq (hpending (by simpa using hv))
    obtain ⟨hqp, hovf⟩ := producerEffect_of_not_riseValid p s.cycleStart hv
    have hkeeps : LosesNoBit p s.cycleStart :=
      (losesNoBit_or_overflow p (s := s.cycleStart) hdepth).resolve_right fun ⟨_, hv', _⟩ =>
        absurd (hv.symm.trans hv') (by decide)
    have hqc : (producerEffect p s.cycleStart).consumerEffect.q = [] :=
      State.consumerEffect_q_of_atMostOneBit (by rwa [hqp])
    refine ⟨?_, ?_, ?_⟩
    · rw [State.AtMostOneBit, hqc]
      exact ⟨Nat.zero_le _, fun _ => rfl⟩
    · rw [State.consumerEffect_qOvf, hovf, State.cycleStart_qOvf]
    · exact (State.outcome_consumerEffect (by rwa [producerEffect_cfg])).trans
        (State.outcome_producerEffect hdepth hdec rfl rfl rfl rfl hkeeps)

/-- Settles O46: a cycle with `rst = 0` is the effects of both agents in one of the two orders. -/
theorem clockNeverOverflowsTheQueue : Obligations.ClockNeverOverflowsTheQueue := by
  intro s t h hclock
  obtain ⟨hwf, p, hdec, rfl⟩ := State.clock_false_cases hclock
  obtain ⟨hone, hovf, -⟩ := State.cycleEffect_of_atMostOneBit hwf h hdec
  exact ⟨hone, hovf⟩

theorem State.cycleEffect_cfg (p : Instr) (s : State) : (s.cycleEffect p).cfg = s.cfg := by
  unfold State.cycleEffect
  split_ifs
  · rw [producerEffect_cfg, State.consumerEffect_cfg, State.cycleStart_cfg]
  · rw [State.consumerEffect_cfg, producerEffect_cfg, State.cycleStart_cfg]

theorem State.cycleEffect_events (p : Instr) (s : State) : (s.cycleEffect p).events = s.events.tail := by
  unfold State.cycleEffect
  split_ifs
  · rw [producerEffect_events, State.consumerEffect_events, State.cycleStart_events]
  · rw [State.consumerEffect_events, producerEffect_events, State.cycleStart_events]

theorem State.cycleEffect_pIdle_q (s : State) : (s.cycleEffect .pIdle).q = s.q.tail := by
  unfold State.cycleEffect
  split_ifs
  · exact State.consumerEffect_q _
  · exact State.consumerEffect_q _

/-- As many cycles as there are words, and one more, leave a quiescent state with the same outcome (R248). -/
theorem State.clockFor_drains {s : State} (hwf : s.cfg.WellFormed) (h : s.AtMostOneBit)
    (hfit : ∀ w ∈ s.events, w < 2 ^ (s.cfg.tsW + 2)) :
    ∃ t, s.clockFor (s.events.length + 1) = .next t ∧ t.Quiescent ∧ t.qOvf = s.qOvf ∧ t.outcome = s.outcome := by
  induction hev : s.events generalizing s with
  | nil =>
    obtain ⟨-, hovf, hout⟩ := State.cycleEffect_of_atMostOneBit hwf h (decode_evPort_nil hev)
    refine ⟨s.cycleEffect .pIdle, ?_, ⟨?_, ?_⟩, hovf, hout⟩
    · rw [List.length_nil, State.clockFor, State.clock_false_eq hwf (decode_evPort_nil hev)]
      rfl
    · rw [State.cycleEffect_events, hev]
      rfl
    · rw [State.cycleEffect_pIdle_q]
      exact List.eq_nil_of_length_eq_zero (by rw [List.length_tail]; omega)
  | cons w ws ih =>
    obtain ⟨p, hdec⟩ := decode_evPort_of_fits hfit
    obtain ⟨hone, hovf, hout⟩ := State.cycleEffect_of_atMostOneBit hwf h hdec
    have hcfg := s.cycleEffect_cfg p
    have htail : (s.cycleEffect p).events = ws := by rw [State.cycleEffect_events, hev]; rfl
    obtain ⟨t, hrun, hquiet, hovf', hout'⟩ := ih (s := s.cycleEffect p) (by rwa [hcfg]) hone
      (by rw [htail, hcfg]; exact fun w hw => hfit w (by rw [hev]; exact .tail _ hw)) htail
    refine ⟨t, ?_, hquiet, hovf'.trans hovf, hout'.trans hout⟩
    rw [List.length_cons, State.clockFor, State.clock_false_eq hwf hdec]
    exact hrun

/-! Trains of pulses (R87, R91). -/

/-- With room in the queue a class queues its bit, if it has one (R82, R112). -/
theorem State.takeClass_q_of_room (r : BitClass) {s : State} (hroom : s.q.length < s.cfg.qDepth) :
    (s.takeClass r).q = s.q ++ (classBit r).toList := by
  cases r with
  | one => exact congrArg State.q (State.qPush_of_room true hroom)
  | zero => exact congrArg State.q (State.qPush_of_room false hroom)
  | invalid => exact (List.append_nil _).symm

theorem State.takeWord_rising (s : State) {t : Nat} (ht : t < 2 ^ s.cfg.tsW) :
    s.takeWord (evWord s.cfg.tsW .rising t) = { s with q := [], lastRise := t, riseValid := true } := by
  rw [State.takeWord_of_decode (decode_evWord_rising ht), producerEffect, State.rise, tsOperand_of_lt ht]

/-- A falling edge less than one turn of the counter after the pending rising edge offers the bit of the elapsed ticks,
if they have one (R112, R114). -/
theorem State.takeWord_falling_q {s : State} {T d : Nat} (hdepth : 1 ≤ s.cfg.qDepth) (hv : s.riseValid = true)
    (hlast : s.lastRise = T % 2 ^ s.cfg.tsW) (hd : d < 2 ^ s.cfg.tsW) :
    (s.takeWord (evWord s.cfg.tsW .falling ((T + d) % 2 ^ s.cfg.tsW))).q =
      (classBit (classify s.cfg d)).toList := by
  have ht : (T + d) % 2 ^ s.cfg.tsW < 2 ^ s.cfg.tsW := Nat.mod_lt _ (Nat.two_pow_pos _)
  have hclass : classify s.cfg (delta s.cfg (tsOperand s.cfg ((T + d) % 2 ^ s.cfg.tsW)) s.lastRise) =
      classify s.cfg d := by rw [tsOperand_of_lt ht, hlast, delta_of_elapsed T hd]
  rw [State.takeWord_of_decode (decode_evWord_falling ht), producerEffect,
    State.fall_of_riseValid (s := { s with q := [] }) hv hclass]
  exact State.takeClass_q_of_room _ (s := { s with q := [], riseValid := false }) hdepth

/-- The words of a train of pulses offer the bits that it conveys (R87, R91). -/
theorem State.offers_pulseWords {s : State} (hdepth : 1 ≤ s.cfg.qDepth) (T : Nat) {pulses : List (Nat × Nat)}
    (hpulses : ∀ x ∈ pulses, x.1 < 2 ^ s.cfg.tsW) :
    s.offers (pulseWords s.cfg.tsW T pulses) = pulseBits s.cfg pulses := by
  induction pulses generalizing s T with
  | nil => rfl
  | cons x rest ih =>
    obtain ⟨d, g⟩ := x
    have hrise := s.takeWord_rising (Nat.mod_lt T (Nat.two_pow_pos s.cfg.tsW))
    have hfall := State.takeWord_falling_q (s := { s with q := [], lastRise := T % 2 ^ s.cfg.tsW, riseValid := true })
      hdepth rfl rfl (hpulses (d, g) (.head _))
    have hcfg := State.takeWord_cfg (evWord s.cfg.tsW .falling ((T + d) % 2 ^ s.cfg.tsW))
      { s with q := [], lastRise := T % 2 ^ s.cfg.tsW, riseValid := true }
    have hrest := ih (s := State.takeWord (evWord s.cfg.tsW .falling ((T + d) % 2 ^ s.cfg.tsW))
      { s with q := [], lastRise := T % 2 ^ s.cfg.tsW, riseValid := true }) (by rwa [hcfg])
      ((T + d + g) % 2 ^ s.cfg.tsW) (by rw [hcfg]; exact fun x hx => hpulses x (.tail _ hx))
    rw [hcfg] at hrest
    rw [pulseWords, State.offers, hrise, State.offers, hfall, hrest, pulseBits, pulseBits, List.filterMap_cons]
    cases classBit (classify s.cfg d) <;> rfl

theorem pulseWords_length (tsW T : Nat) (pulses : List (Nat × Nat)) :
    (pulseWords tsW T pulses).length = 2 * pulses.length := by
  induction pulses generalizing T with
  | nil => rfl
  | cons x rest ih =>
    rw [pulseWords, List.length_cons, List.length_cons, ih, List.length_cons]
    omega

/-- The words of a train of pulses fit the port (R80). -/
theorem pulseWords_fit (tsW T : Nat) (pulses : List (Nat × Nat)) :
    ∀ w ∈ pulseWords tsW T pulses, w < 2 ^ (tsW + 2) := by
  induction pulses generalizing T with
  | nil => exact nofun
  | cons x rest ih =>
    have hfits (k : EdgeKind) (n : Nat) : evWord tsW k (n % 2 ^ tsW) < 2 ^ (tsW + 2) :=
      Laws.EncodeFits.evWord_fits tsW _ k (Nat.mod_lt _ (Nat.two_pow_pos _))
    rw [pulseWords, List.forall_mem_cons, List.forall_mem_cons]
    exact ⟨hfits _ _, hfits _ _, ih _⟩

/-- Settles O52: the cycles drain the words and keep the outcome, in which agent C is fed the bits of the packet. -/
theorem clockedRoundTrip : Obligations.ClockedRoundTrip := by
  intro s start n bytes pulses hwf hinit hq hn hne hmin hmax hpulses hbits hev
  obtain ⟨t, hrun, hquiet, hovf, hout⟩ := State.clockFor_drains hwf
    ⟨by rw [hq]; exact Nat.zero_le _, fun _ => hq⟩ (by rw [hev]; exact pulseWords_fit _ _ _)
  rw [hev, pulseWords_length] at hrun
  rw [State.outcome_of_quiescent hquiet, State.outcome, hq, hev, State.offers_pulseWords (qDepth_pos hwf) start hpulses,
    hbits, List.nil_append, State.feed_packetBits hwf hinit hn hne hmin hmax] at hout
  obtain ⟨-, hdec, hpkt, hpackets⟩ := State.consumerPart_eq_iff.1 (Prod.mk.inj hout).2
  exact ⟨t, hrun, hquiet, hdec.trans hinit, hovf, hpkt, hpackets⟩

end Sys2Proof.Machine
end

section
/-! PROOFS. Two schedules without end: one that gives agent C no turn, under which any queue overflows, and that of the
clocked block, which is fair (R192).
-/

namespace Sys2Proof.Machine

/-! Turns of agent P alone. -/

section
variable {s : State} {σ : Schedule}

/-- No turn of a run without a reset clears `q_ovf` (R24). -/
theorem State.Inv.runUnder_qOvf (h : s.Inv) (hfree : σ.ResetFree) {n k : Nat} (hnk : n ≤ k)
    (hovf : (s.runUnder σ n).qOvf = true) : (s.runUnder σ k).qOvf = true := by
  induction k, hnk using Nat.le_induction with
  | base => exact hovf
  | succ k _ ih => exact qOvf_of_step (s := (s.runUnder σ k).inTurn (σ k)) (hfree k) (h.runUnder σ k).step_runUnder ih

/-- Where all turns are agent P's, the words are taken in order: they queue what they offer, or a bit is lost. -/
theorem State.Inv.runUnder_all_producer (h : s.Inv) (hturns : ∀ k, σ k = .producer) (ws es : List Nat) (n : Nat)
    (hev : (s.runUnder σ n).events = ws ++ es) :
    (s.runUnder σ (n + ws.length)).qOvf = true ∨
      (s.runUnder σ (n + ws.length)).q = (s.runUnder σ n).q ++ (s.runUnder σ n).offers ws := by
  induction ws generalizing n with
  | nil => exact .inr (List.append_nil _).symm
  | cons w ws ih =>
    have hfree : σ.ResetFree := fun k => by rw [hturns k]; decide
    have hdepth := qDepth_pos (h.runUnder σ n).config
    have hport : (s.runUnder σ n).evPort = w := by rw [State.evPort, hev]; rfl
    obtain ⟨p, hdec⟩ := (h.runUnder σ n).decode_evPort
    have hnext := h.runUnder_succ_producer (hturns n) hdec
    have hindex : n + (w :: ws).length = n + 1 + ws.length := by rw [List.length_cons]; omega
    rw [hindex]
    rcases losesNoBit_or_overflow p (s := ((s.runUnder σ n).inTurn .producer).afterFetch) hdepth with
      hkeeps | ⟨-, -, hlost⟩
    · obtain ⟨hpart, hqueue⟩ := producerEffect_takes (s := s.runUnder σ n)
        (u := ((s.runUnder σ n).inTurn .producer).afterFetch) hdepth (hport ▸ hdec) rfl hkeeps
      rw [← hnext] at hpart hqueue
      have hevs : (s.runUnder σ (n + 1)).events = ws ++ es := by
        rw [hnext, producerEffect_events]
        exact congrArg List.tail hev
      refine (ih (n + 1) hevs).imp_right fun hq => ?_
      obtain ⟨-, hoffers⟩ := State.takeWords_congr ws (qDepth_pos (h.runUnder σ (n + 1)).config) hpart
      rw [hq, hqueue, hoffers, State.offers, List.append_assoc]
      rfl
    · rw [← hnext] at hlost
      exact .inl (h.runUnder_qOvf hfree (Nat.le_add_right _ _) hlost)

end

/-- Settles O57: agent P writes nothing of agent C's, and a queue within its capacity cannot hold the offered bits. -/
theorem unfairRunEmitsNothingAndOverflows : Obligations.UnfairRunEmitsNothingAndOverflows := by
  refine ⟨fun s σ n h hturns k hnk => ?_, fun s σ start pulses es h hturns hpulses hev hmany => ?_⟩
  · obtain ⟨hpart, hprefix⟩ := h.runUnder_producers hnk fun j hj _ => hturns j hj
    obtain ⟨-, hdec, -, hout⟩ := State.consumerPart_eq_iff.1 hpart
    exact ⟨hout, hdec, hprefix⟩
  · have hrun := h.runUnder_all_producer hturns _ es 0 hev
    rw [pulseWords_length, Nat.zero_add, State.runUnder_zero, State.offers_pulseWords (qDepth_pos h.config) start hpulses]
      at hrun
    refine hrun.resolve_right fun hq => ?_
    obtain ⟨hpart, -⟩ := h.runUnder_producers (Nat.zero_le (2 * pulses.length)) fun j _ _ => hturns j
    obtain ⟨hcfg, -⟩ := State.consumerPart_eq_iff.1 hpart
    have hfits := (h.runUnder σ (2 * pulses.length)).storage.1
    rw [hq, hcfg, State.runUnder_zero, List.length_append] at hfits
    omega

/-! The schedule of the clocked block. -/

/-- A clock cycle as a function of the state; a word that no port presents leaves it. -/
def State.cycle (s : State) : State :=
  match decode s.cfg.tsW (.ev s.evPort) with
  | .ok p => s.cycleEffect p
  | .error _ => s

theorem State.cycle_of_decode {s : State} {p : Instr} (h : decode s.cfg.tsW (.ev s.evPort) = .ok p) :
    s.cycle = s.cycleEffect p := by
  rw [State.cycle, h]

section
variable {s : State}

theorem State.Inv.clock_eq_cycle (h : s.Inv) : s.clock false = .next s.cycle := by
  obtain ⟨p, hdec⟩ := h.decode_evPort
  rw [State.clock_false_eq h.config hdec, State.cycle_of_decode hdec]

theorem State.Inv.cycle (h : s.Inv) : s.cycle.Inv := invariantsKeptByClock false s s.cycle h h.clock_eq_cycle

theorem State.Inv.iterate_cycle (h : s.Inv) (k : Nat) : (State.cycle^[k] s).Inv := by
  induction k generalizing s with
  | zero => exact h
  | succ k ih => exact ih h.cycle

/-- From a state that meets the invariants the clock never stops. -/
theorem State.Inv.clockFor_eq (h : s.Inv) (k : Nat) : s.clockFor k = .next (State.cycle^[k] s) := by
  induction k generalizing s with
  | zero => rfl
  | succ k ih =>
    rw [State.clockFor, h.clock_eq_cycle]
    exact ih h.cycle

end

/-- A cycle is both effects in one of the two orders, and takes one word and one number of the free values (R63). -/
theorem State.cycleEffect_eq (p : Instr) (s : State) :
    s.cycleEffect p =
      { (if s.q = [] then producerEffect p s.consumerEffect else (producerEffect p s).consumerEffect) with
        events := s.events.tail, freeCount := s.freeCount + 1 } := by
  unfold State.cycleEffect State.cycleStart
  split_ifs
  · rw [State.consumerEffect_with_source, producerEffect_with_source]
  · rw [producerEffect_with_source, State.consumerEffect_with_source]

/-- Two turns of a run, agent C's first. -/
theorem State.Inv.runUnder_consumer_producer {s c : State} {σ : Schedule} {k m : Nat} {p : Instr} (h : s.Inv)
    (hrun : s.runUnder σ k = { c with freeCount := m }) (hfirst : σ k = .consumer) (hsecond : σ (k + 1) = .producer)
    (hdec : decode c.cfg.tsW (.ev c.evPort) = .ok p) :
    s.runUnder σ (k + 2) =
      { producerEffect p c.consumerEffect with events := c.events.tail, freeCount := m + 2 } := by
  have hone := h.runUnder_succ_consumer hfirst
  rw [hrun, State.consumerEffect_with_source c c.events m] at hone
  rw [h.runUnder_succ_producer (p := p) hsecond (by rw [hone]; exact c.consumerEffect_cfg ▸ hdec), hone]
  exact producerEffect_with_source p c.consumerEffect c.events.tail (m + 2)

/-- Two turns of a run, agent P's first. -/
theorem State.Inv.runUnder_producer_consumer {s c : State} {σ : Schedule} {k m : Nat} {p : Instr} (h : s.Inv)
    (hrun : s.runUnder σ k = { c with freeCount := m }) (hfirst : σ k = .producer) (hsecond : σ (k + 1) = .consumer)
    (hdec : decode c.cfg.tsW (.ev c.evPort) = .ok p) :
    s.runUnder σ (k + 2) =
      { (producerEffect p c).consumerEffect with events := c.events.tail, freeCount := m + 2 } := by
  have hone := h.runUnder_succ_producer (p := p) hfirst (by rw [hrun]; exact hdec)
  rw [hrun] at hone
  have hsource := hone.trans (producerEffect_with_source p c c.events.tail (m + 1))
  rw [h.runUnder_succ_consumer hsecond, hsource, State.consumerEffect_with_source]

/-- The turns of the clocked block (R63): in cycle `k` agent C goes first where the cycle begins with an empty queue,
otherwise agent P. -/
def cycleSchedule (s : State) : Schedule := fun n =>
  if (State.cycle^[n / 2] s).q = [] ↔ n % 2 = 1 then .producer else .consumer

theorem cycleSchedule_first (s : State) (k : Nat) :
    cycleSchedule s (2 * k) = if (State.cycle^[k] s).q = [] then .consumer else .producer := by
  rw [cycleSchedule, Nat.mul_div_cancel_left k (by decide), Nat.mul_mod_right]
  split_ifs <;> simp_all

theorem cycleSchedule_second (s : State) (k : Nat) :
    cycleSchedule s (2 * k + 1) = if (State.cycle^[k] s).q = [] then .producer else .consumer := by
  have hdiv : (2 * k + 1) / 2 = k := by omega
  have hmod : (2 * k + 1) % 2 = 1 := by omega
  rw [cycleSchedule, hdiv, hmod]
  split_ifs <;> simp_all

/-- The two turns of a cycle do what the cycle does, but for the counter of free values (R63). -/
theorem State.Inv.runUnder_cycleSchedule {s : State} (h : s.Inv) (k : Nat) :
    ∃ m, s.runUnder (cycleSchedule s) (2 * k) = { State.cycle^[k] s with freeCount := m } := by
  induction k with
  | zero => exact ⟨s.freeCount, rfl⟩
  | succ k ih =>
    obtain ⟨m, hm⟩ := ih
    have hfirst := cycleSchedule_first s k
    have hsecond := cycleSchedule_second s k
    obtain ⟨p, hdec⟩ := (h.iterate_cycle k).decode_evPort
    rw [Function.iterate_succ_apply', State.cycle_of_decode hdec, State.cycleEffect_eq]
    split_ifs at hfirst hsecond ⊢ with hq
    · exact ⟨m + 2, h.runUnder_consumer_producer hm hfirst hsecond hdec⟩
    · exact ⟨m + 2, h.runUnder_producer_consumer hm hfirst hsecond hdec⟩

/-- Settles O58: the schedule of the clocked block gives agent C a turn in every cycle. -/
theorem clockRunIsAFairRun : Obligations.ClockRunIsAFairRun := by
  intro s h
  have hpairs (k : Nat) :
      (cycleSchedule s (2 * k) = .producer ∧ cycleSchedule s (2 * k + 1) = .consumer) ∨
        (cycleSchedule s (2 * k) = .consumer ∧ cycleSchedule s (2 * k + 1) = .producer) := by
    rw [cycleSchedule_first, cycleSchedule_second]
    split_ifs
    · exact .inr ⟨rfl, rfl⟩
    · exact .inl ⟨rfl, rfl⟩
  refine ⟨cycleSchedule s, fun n => ?fair, fun k => ?free, hpairs, fun k => ?run⟩
  case fair =>
    rcases hpairs n with ⟨-, hturn⟩ | ⟨hturn, -⟩
    · exact ⟨2 * n + 1, by omega, hturn⟩
    · exact ⟨2 * n, by omega, hturn⟩
  case free =>
    unfold cycleSchedule
    split_ifs <;> decide
  case run =>
    obtain ⟨m, hm⟩ := h.runUnder_cycleSchedule k
    exact ⟨_, m, h.clockFor_eq k, hm⟩

end Sys2Proof.Machine
end
